-- ==== Sys2Proof/Word.lean ====
section
/-! DEFINITION. The word types of the block: the widths the spec fixes (00_scope.md R2, R3; 30_encoding.md R71, R73). -/

namespace Sys2Proof

/-- One payload byte of a frame (R23). -/
abbrev Byte := BitVec 8

/-- A ring index, a fill level or the capacity: 8 bits (R2, R3). -/
abbrev Index := BitVec 8

/-- A counter (`CNT_W = 32`, R3), a millisecond value (R2, R3) or a frame identifier (R23). -/
abbrev Word32 := BitVec 32

/-- A microsecond count (R2): the clock and the capture stamps. Also the width of `f_data` (R76). -/
abbrev Word64 := BitVec 64

/-- A packed frame as `p_frame` and `f_frame` carry it (R73). -/
abbrev FrameWord := BitVec 102

/-- A port F command word (R71). -/
abbrev CmdWord := BitVec 40

end Sys2Proof
end

