-- ==== Sys2Proof/Syntax.lean ====
section
/-! DEFINITION. Frames (10_state.md R23, R24), the 35 operations (30_encoding.md R75), one constructor per row of
spec/opcode_table.json, the words the two ports carry (R70) and the pseudo-operations (R84). -/

namespace Sys2Proof

/-- The eight byte lanes of a frame, `b0` is `data[0]` (R23). Lanes at and past `len` are carried unchanged (D31). -/
structure Payload where
  b0 : Byte
  b1 : Byte
  b2 : Byte
  b3 : Byte
  b4 : Byte
  b5 : Byte
  b6 : Byte
  b7 : Byte
  deriving DecidableEq, Repr, Inhabited

/-- A CAN frame (R23). `len` is the 4-bit field; that it is at most 8 is the check of WellFormed. -/
structure Frame where
  id : Word32
  ext : Bool
  rtr : Bool
  len : BitVec 4
  data : Payload
  deriving DecidableEq, Repr, Inhabited

/-- A frame with its capture time (R24): the content of one ring cell. -/
structure TimedFrame where
  frame : Frame
  stamp : Word64
  deriving DecidableEq, Repr, Inhabited

/-- The operations of the block, in the order of R75. -/
inductive Instr where
  | ringPut (frame : Frame)
  | ringPeek
  | ringGet
  | ringInserttime
  | ringClear
  | ringSize
  | ringEmpty
  | ringFull
  | ringAvailable
  | ringFreeslots
  | ringHighwater
  | ringPuts
  | ringGets
  | ringOverflows
  | ledSetpin
  | ledOn
  | ledOff
  | ledToggle
  | ledBlink
  | ledPulse (short : Bool)
  | ledRun
  | ledGetstate
  | ledSetshort (ms : Word32)
  | ledSetlong (ms : Word32)
  | ledSethalf (ms : Word32)
  | swSetpin (activeHigh : Bool)
  | swRun
  | swGetstate
  | swIspressed
  | swStatechanged
  | swCurduration
  | swLastduration
  | swLastchangetime
  | swResetduration
  | swSetdebounce (ms : Word32)
  deriving DecidableEq, Repr

/-- The two command ports (R70) and with them the two contexts that use them (R203): the interrupt context issues on
port P, the foreground on port F. -/
inductive Port where
  | p
  | f
  deriving DecidableEq, Repr

/-- What a port presents in a step with its valid bit set: `p_frame` on port P, `f_cmd` on port F (R70). -/
inductive Command where
  | p (frame : FrameWord)
  | f (cmd : CmdWord)
  deriving DecidableEq, Repr

/-- The pseudo-operations of the polling surface (R84). -/
inductive Pseudo where
  | canrxAvailable
  | canrxNext
  deriving DecidableEq, Repr

end Sys2Proof
end

