-- ==== Sys2Proof/Machine/Operands.lean ====
section
/-! DEFINITION. The operand forms of 30_encoding.md R79 and the length field of a frame (10_state.md R23). -/

namespace Sys2Proof

/-- Form *flag*: `arg[0]` is the operand, the other bits are not read (R79, R81). -/
def flagOperand (arg : Word32) : Bool := arg.getLsbD 0

/-- Form *ms*: all 32 bits as they stand, no scaling, no extension (R79). -/
def msOperand (arg : Word32) : Word32 := arg

/-- The operand field of the form *none*, as the encoder writes it: R79 reads no bit of it. -/
def noArg : Word32 := 0

/-- The operand field of the form *flag*, the bits not read written as 0. -/
def flagArg (b : Bool) : Word32 := if b then 1 else 0

/-- The operand field of the form *ms*. -/
def msArg (ms : Word32) : Word32 := ms

/-- The legal lengths of a payload: 0 to 8 (R23). -/
def lenIsLegal (len : BitVec 4) : Bool := decide (len.toNat ≤ 8)

end Sys2Proof
end

