-- ==== Sys2Proof/WellFormed.lean ====
section
/-! DEFINITION. When a term of Instr is an operation of the spec. The one check is on the frame of a put: a `len` of 9 to 15 is
not a Frame (10_state.md R23, U5). Every other operand form admits every value (30_encoding.md R79). -/

namespace Sys2Proof

/-- A Frame in the sense of R23: its length field is 0 to 8. -/
def Frame.wellFormed (f : Frame) : Bool := lenIsLegal f.len

/-- The instruction is one the spec defines. -/
def wellFormed (i : Instr) : Bool :=
  match i with
  | .ringPut f => f.wellFormed
  | .ringPeek => true
  | .ringGet => true
  | .ringInserttime => true
  | .ringClear => true
  | .ringSize => true
  | .ringEmpty => true
  | .ringFull => true
  | .ringAvailable => true
  | .ringFreeslots => true
  | .ringHighwater => true
  | .ringPuts => true
  | .ringGets => true
  | .ringOverflows => true
  | .ledSetpin => true
  | .ledOn => true
  | .ledOff => true
  | .ledToggle => true
  | .ledBlink => true
  | .ledPulse _ => true
  | .ledRun => true
  | .ledGetstate => true
  | .ledSetshort _ => true
  | .ledSetlong _ => true
  | .ledSethalf _ => true
  | .swSetpin _ => true
  | .swRun => true
  | .swGetstate => true
  | .swIspressed => true
  | .swStatechanged => true
  | .swCurduration => true
  | .swLastduration => true
  | .swLastchangetime => true
  | .swResetduration => true
  | .swSetdebounce _ => true

end Sys2Proof
end

