-- ==== Sys2Proof/Decode.lean ====
section
/-! DEFINITION. Decoding and encoding: frames (30_encoding.md R73), port F words (R71, R72, R75, R79), the words of
spec/opcode_table.json, mnemonics (R83) and pseudo-operations (R84). Decoding is total and rejects by name. -/

namespace Sys2Proof

/-- Why a port's word is no operation. -/
inductive DecodeError where
  /-- A port F word whose opcode R80 reserves; the block answers ILLEGAL and goes on. -/
  | reservedOpcode (op : BitVec 8)
  /-- A port P word whose length field is 9 to 15: not a Frame (R23, U5); the model refuses the put (log 9). -/
  | notAFrame (len : BitVec 4)
  deriving DecidableEq, Repr

/-! ## Frames -/

/-- A field placed with its bit 0 at bit `lo` of a packed frame. -/
def fieldAt {n : Nat} (lo : Nat) (v : BitVec n) : FrameWord := v.setWidth 102 <<< lo

/-- The 102 bits of a frame: `id` lowest, then `ext`, `rtr`, `len`, `data[0]` up to `data[7]` (R73). -/
def packFrame (f : Frame) : FrameWord :=
  fieldAt 0 f.id ||| fieldAt 32 (BitVec.ofBool f.ext) ||| fieldAt 33 (BitVec.ofBool f.rtr) ||| fieldAt 34 f.len
    ||| fieldAt 38 f.data.b0 ||| fieldAt 46 f.data.b1 ||| fieldAt 54 f.data.b2 ||| fieldAt 62 f.data.b3
    ||| fieldAt 70 f.data.b4 ||| fieldAt 78 f.data.b5 ||| fieldAt 86 f.data.b6 ||| fieldAt 94 f.data.b7

/-- Payload byte `i` of a packed frame: bits `38+8i+7 : 38+8i` (R73). -/
def payloadByte (w : FrameWord) (i : Nat) : Byte := w.extractLsb' (38 + 8 * i) 8

/-- The fields of 102 bits, whatever the length field says (R73). -/
def frameFields (w : FrameWord) : Frame :=
  { id := w.extractLsb' 0 32
    ext := w.getLsbD 32
    rtr := w.getLsbD 33
    len := w.extractLsb' 34 4
    data :=
      { b0 := payloadByte w 0, b1 := payloadByte w 1, b2 := payloadByte w 2, b3 := payloadByte w 3
        b4 := payloadByte w 4, b5 := payloadByte w 5, b6 := payloadByte w 6, b7 := payloadByte w 7 } }

/-- The put that a port P word stands for; a length field of 9 to 15 is rejected (R23, U5). -/
def decodeP (w : FrameWord) : Except DecodeError Instr :=
  if lenIsLegal (frameFields w).len then .ok (.ringPut (frameFields w)) else .error (.notAFrame (frameFields w).len)

/-! ## Port F words -/

/-- `op`, bits 39:32 (R71). -/
def cmdOp (w : CmdWord) : BitVec 8 := w.extractLsb' 32 8

/-- `arg`, bits 31:0 (R71). -/
def cmdArg (w : CmdWord) : Word32 := w.extractLsb' 0 32

/-- The word of an opcode and an operand field (R71). -/
def cmdWord (op : BitVec 8) (arg : Word32) : CmdWord := op ++ arg

/-- `op[7:4]`, the unit (R72). -/
def opUnit (op : BitVec 8) : Nat := (op.extractLsb' 4 4).toNat

/-- `op[3:0]`, the function within the unit (R72). -/
def opFunction (op : BitVec 8) : Nat := (op.extractLsb' 0 4).toNat

/-- The functions of unit RING on port F; function 0 is the put, which port F cannot carry (R75, R80). -/
def decodeRing (fn : Nat) : Option Instr :=
  match fn with
  | 0x1 => some .ringPeek
  | 0x2 => some .ringGet
  | 0x3 => some .ringInserttime
  | 0x4 => some .ringClear
  | 0x5 => some .ringSize
  | 0x6 => some .ringEmpty
  | 0x7 => some .ringFull
  | 0x8 => some .ringAvailable
  | 0x9 => some .ringFreeslots
  | 0xA => some .ringHighwater
  | 0xB => some .ringPuts
  | 0xC => some .ringGets
  | 0xD => some .ringOverflows
  | _ => none

/-- The functions of unit LED (R75, R79). -/
def decodeLed (fn : Nat) (arg : Word32) : Option Instr :=
  match fn with
  | 0x0 => some .ledSetpin
  | 0x1 => some .ledOn
  | 0x2 => some .ledOff
  | 0x3 => some .ledToggle
  | 0x4 => some .ledBlink
  | 0x5 => some (.ledPulse (flagOperand arg))
  | 0x6 => some .ledRun
  | 0x7 => some .ledGetstate
  | 0x8 => some (.ledSetshort (msOperand arg))
  | 0x9 => some (.ledSetlong (msOperand arg))
  | 0xA => some (.ledSethalf (msOperand arg))
  | _ => none

/-- The functions of unit SW (R75, R79). -/
def decodeSw (fn : Nat) (arg : Word32) : Option Instr :=
  match fn with
  | 0x0 => some (.swSetpin (flagOperand arg))
  | 0x1 => some .swRun
  | 0x2 => some .swGetstate
  | 0x3 => some .swIspressed
  | 0x4 => some .swStatechanged
  | 0x5 => some .swCurduration
  | 0x6 => some .swLastduration
  | 0x7 => some .swLastchangetime
  | 0x8 => some .swResetduration
  | 0x9 => some (.swSetdebounce (msOperand arg))
  | _ => none

/-- The operation that an opcode selects, with the operand its form reads (R72, R75, R79); every opcode of R80 is rejected. -/
def decodeFields (op : BitVec 8) (arg : Word32) : Except DecodeError Instr :=
  match opUnit op with
  | 0 => (decodeRing (opFunction op)).elim (.error (.reservedOpcode op)) .ok
  | 1 => (decodeLed (opFunction op) arg).elim (.error (.reservedOpcode op)) .ok
  | 2 => (decodeSw (opFunction op) arg).elim (.error (.reservedOpcode op)) .ok
  | _ => .error (.reservedOpcode op)

/-- The operation a port F word selects (R71). -/
def decodeF (w : CmdWord) : Except DecodeError Instr := decodeFields (cmdOp w) (cmdArg w)

/-- What a port's word stands for (R70, R85). -/
def decode (c : Command) : Except DecodeError Instr :=
  match c with
  | .p w => decodeP w
  | .f w => decodeF w

/-! ## Encoding -/

/-- The word of an instruction and the port it goes to: R73 for a put, R71, R75 and R79 for the others, with the bits that no
operand form reads written as 0. -/
def encode (i : Instr) : Command :=
  match i with
  | .ringPut x => .p (packFrame x)
  | .ringPeek => .f (cmdWord 0x01 noArg)
  | .ringGet => .f (cmdWord 0x02 noArg)
  | .ringInserttime => .f (cmdWord 0x03 noArg)
  | .ringClear => .f (cmdWord 0x04 noArg)
  | .ringSize => .f (cmdWord 0x05 noArg)
  | .ringEmpty => .f (cmdWord 0x06 noArg)
  | .ringFull => .f (cmdWord 0x07 noArg)
  | .ringAvailable => .f (cmdWord 0x08 noArg)
  | .ringFreeslots => .f (cmdWord 0x09 noArg)
  | .ringHighwater => .f (cmdWord 0x0A noArg)
  | .ringPuts => .f (cmdWord 0x0B noArg)
  | .ringGets => .f (cmdWord 0x0C noArg)
  | .ringOverflows => .f (cmdWord 0x0D noArg)
  | .ledSetpin => .f (cmdWord 0x10 noArg)
  | .ledOn => .f (cmdWord 0x11 noArg)
  | .ledOff => .f (cmdWord 0x12 noArg)
  | .ledToggle => .f (cmdWord 0x13 noArg)
  | .ledBlink => .f (cmdWord 0x14 noArg)
  | .ledPulse x => .f (cmdWord 0x15 (flagArg x))
  | .ledRun => .f (cmdWord 0x16 noArg)
  | .ledGetstate => .f (cmdWord 0x17 noArg)
  | .ledSetshort x => .f (cmdWord 0x18 (msArg x))
  | .ledSetlong x => .f (cmdWord 0x19 (msArg x))
  | .ledSethalf x => .f (cmdWord 0x1A (msArg x))
  | .swSetpin x => .f (cmdWord 0x20 (flagArg x))
  | .swRun => .f (cmdWord 0x21 noArg)
  | .swGetstate => .f (cmdWord 0x22 noArg)
  | .swIspressed => .f (cmdWord 0x23 noArg)
  | .swStatechanged => .f (cmdWord 0x24 noArg)
  | .swCurduration => .f (cmdWord 0x25 noArg)
  | .swLastduration => .f (cmdWord 0x26 noArg)
  | .swLastchangetime => .f (cmdWord 0x27 noArg)
  | .swResetduration => .f (cmdWord 0x28 noArg)
  | .swSetdebounce x => .f (cmdWord 0x29 (msArg x))

/-! ## The opcode map as data (R75) -/

/-- The opcode of R75; 0x00 is the implied opcode of port P. -/
def opcodeOf (i : Instr) : BitVec 8 :=
  match i with
  | .ringPut _ => 0x00
  | .ringPeek => 0x01
  | .ringGet => 0x02
  | .ringInserttime => 0x03
  | .ringClear => 0x04
  | .ringSize => 0x05
  | .ringEmpty => 0x06
  | .ringFull => 0x07
  | .ringAvailable => 0x08
  | .ringFreeslots => 0x09
  | .ringHighwater => 0x0A
  | .ringPuts => 0x0B
  | .ringGets => 0x0C
  | .ringOverflows => 0x0D
  | .ledSetpin => 0x10
  | .ledOn => 0x11
  | .ledOff => 0x12
  | .ledToggle => 0x13
  | .ledBlink => 0x14
  | .ledPulse _ => 0x15
  | .ledRun => 0x16
  | .ledGetstate => 0x17
  | .ledSetshort _ => 0x18
  | .ledSetlong _ => 0x19
  | .ledSethalf _ => 0x1A
  | .swSetpin _ => 0x20
  | .swRun => 0x21
  | .swGetstate => 0x22
  | .swIspressed => 0x23
  | .swStatechanged => 0x24
  | .swCurduration => 0x25
  | .swLastduration => 0x26
  | .swLastchangetime => 0x27
  | .swResetduration => 0x28
  | .swSetdebounce _ => 0x29

/-- The port a word is presented on. -/
def portOf (c : Command) : Port :=
  match c with
  | .p _ => .p
  | .f _ => .f

/-- The opcode a command carries: the field `op` on port F, the implied 0x00 on port P (R70, R71). -/
def commandOpcode (c : Command) : BitVec 8 :=
  match c with
  | .p _ => 0x00
  | .f w => cmdOp w

/-- `UNIT.NAME` (R83), as spec/opcode_table.json spells it. -/
def mnemonicOf (i : Instr) : String :=
  match i with
  | .ringPut _ => "RING.PUT"
  | .ringPeek => "RING.PEEK"
  | .ringGet => "RING.GET"
  | .ringInserttime => "RING.INSERTTIME"
  | .ringClear => "RING.CLEAR"
  | .ringSize => "RING.SIZE"
  | .ringEmpty => "RING.EMPTY"
  | .ringFull => "RING.FULL"
  | .ringAvailable => "RING.AVAILABLE"
  | .ringFreeslots => "RING.FREESLOTS"
  | .ringHighwater => "RING.HIGHWATER"
  | .ringPuts => "RING.PUTS"
  | .ringGets => "RING.GETS"
  | .ringOverflows => "RING.OVERFLOWS"
  | .ledSetpin => "LED.SETPIN"
  | .ledOn => "LED.ON"
  | .ledOff => "LED.OFF"
  | .ledToggle => "LED.TOGGLE"
  | .ledBlink => "LED.BLINK"
  | .ledPulse _ => "LED.PULSE"
  | .ledRun => "LED.RUN"
  | .ledGetstate => "LED.GETSTATE"
  | .ledSetshort _ => "LED.SETSHORT"
  | .ledSetlong _ => "LED.SETLONG"
  | .ledSethalf _ => "LED.SETHALF"
  | .swSetpin _ => "SW.SETPIN"
  | .swRun => "SW.RUN"
  | .swGetstate => "SW.GETSTATE"
  | .swIspressed => "SW.ISPRESSED"
  | .swStatechanged => "SW.STATECHANGED"
  | .swCurduration => "SW.CURDURATION"
  | .swLastduration => "SW.LASTDURATION"
  | .swLastchangetime => "SW.LASTCHANGETIME"
  | .swResetduration => "SW.RESETDURATION"
  | .swSetdebounce _ => "SW.SETDEBOUNCE"

/-- The other spellings R83 reports for an operation. -/
def siblingSpellings (i : Instr) : List String :=
  match i with
  | .ringInserttime => ["insert_time", "getInsertTime"]
  | .ringFreeslots => ["free_slots", "getNumFreeSlots"]
  | .ringOverflows => ["overflows", "getNumOverflows"]
  | _ => []

/-- The expansion of a pseudo-operation (R84). -/
def expandPseudo (p : Pseudo) : Instr :=
  match p with
  | .canrxAvailable => .ringAvailable
  | .canrxNext => .ringGet

/-! ## The words of spec/opcode_table.json -/

/-- The command that a table row's word stands for, every bit at and above `nbits` being 0 (log 12). A row's 40 bits are a port F
word; the row of `RING.PUT` (opcode byte 0x00) is the port P command whose `p_frame` has the row's low 32 bits in its low 32 bits
and zeros above; a row wider than 40 bits is `p_frame` itself. -/
def commandOfTableWord (nbits w : Nat) : Command :=
  if Nat.ble nbits 40 then
    if Nat.beq ((w % 2 ^ nbits) / 2 ^ 32) 0 then .p (BitVec.ofNat 102 (w % 2 ^ nbits))
    else .f (BitVec.ofNat 40 (w % 2 ^ nbits))
  else .p (BitVec.ofNat 102 (w % 2 ^ nbits))

/-- The instruction the decoder reads from a row's word. -/
def decodeTableWord (nbits w : Nat) : Option Instr :=
  match decode (commandOfTableWord nbits w) with
  | .ok i => some i
  | .error _ => none

end Sys2Proof
end

