-- ==== Sys2Proof/Config.lean ====
section
/-! DEFINITION. What an instance fixes (00_scope.md R1, R4) and the free values the spec leaves open (U1, U3). -/

namespace Sys2Proof.Config

/-- `CAPACITY` of the instance that `State.reset` stands for. R1 leaves it open in 0..255. DESIGN CHOICE (log 7): 4, the
capacity of the reset vector V-RING-1. The capacity in use is a field of State, which no step changes, so a statement about every
state holds for every capacity. -/
def capacity : Index := 4

/-- Default of a short pulse in ms (R4). -/
def pulseShortMs : Word32 := 100

/-- Default of a long pulse in ms (R4). -/
def pulseLongMs : Word32 := 500

/-- Default blink half-period in ms (R4). -/
def blinkHalfMs : Word32 := 500

/-- Default debounce time in ms (R4). -/
def debounceMs : Word32 := 20

/-- The `n`-th value of `draw_64()`: what `RING.INSERTTIME` answers on an empty ring (R103, U1). FREE VALUE, log 5. -/
opaque freeStamp : Nat → Word64

/-- What the cell of an index holds while nothing has written it since reset (R11, U3). FREE VALUE, log 6. -/
opaque unwrittenCell : Nat → TimedFrame

end Sys2Proof.Config
end

