-- ==== Sys2Proof/Machine/State.lean ====
section
/-! DEFINITION. The state of the block (10_state.md R10 to R46), the inputs and the response of a step, the reasons a step can
stop, and the state after reset (70_reset_and_hazards.md R230 to R233). -/

namespace Sys2Proof.Machine

/-- The only ground on which the model stops a run: raised by a cell access. The block itself raises no exception (R200). -/
inductive Fault where
  /-- An access to a cell index at or above CAPACITY, an address that does not exist (R50). Raised by `State.cellRead` and
  `State.cellWrite`. Safe: no state that satisfies the ring invariant (R21) makes such an access (R54), log 8. -/
  | noSuchCell (index : Index)
  deriving DecidableEq, Repr

/-- Why the model has no next state although the block is not stopped by it. -/
inductive Refusal where
  /-- Raised by the dispatcher for an instruction with no meaning yet. No arm raises it. Safe. -/
  | notModelled (mnemonic : String)
  /-- A put of something that is not a Frame: its length field is 9 to 15 (R23, U5: the model refuses it). Raised by the meaning of
  the put and by the issue of a port P word. Safe, log 9. -/
  | notAFrame (len : BitVec 4)
  deriving DecidableEq, Repr

/-- The cell array as the cells written since reset: pairs of a cell index and the cell, indices strictly rising. A cell not listed
holds no value the spec gives (R11). The unit of access is the whole cell (R51), log 6. -/
abbrev Memory := List (Nat × TimedFrame)

/-- The registers and the cells of RING (R11 to R19). -/
structure RingState where
  cells : Memory
  head : Index
  tail : Index
  full : Bool
  size : Index
  highWater : Index
  puts : Word32
  gets : Word32
  overflows : Word32
  deriving DecidableEq, Repr

/-- The state set of the LED (R30); its numeric codes are in `LedMode.code`. -/
inductive LedMode where
  | off
  | on
  | blink
  | pulse
  deriving DecidableEq, Repr

/-- The registers of LED (R30, R31). -/
structure LedState where
  mode : LedMode
  level : Bool
  fresh : Bool
  phaseStart : Word32
  halfPeriod : Word32
  pulseStart : Word32
  pulseDur : Word32
  oe : Bool
  cfgShort : Word32
  cfgLong : Word32
  cfgHalf : Word32
  deriving DecidableEq, Repr

/-- The registers of SW (R40, R41, R43). In `raw` and `stable`, false (0) is pressed and true (1) is released (R42). -/
structure SwState where
  raw : Bool
  stable : Bool
  changed : Bool
  lastChangeTime : Word32
  currentStateStart : Word32
  lastStateDuration : Word32
  activeHigh : Bool
  cfgd : Bool
  debounceMs : Word32
  mismatchStart : Word32
  deriving DecidableEq, Repr

/-- The statuses of a response (R77); their codes are in `Status.code`. -/
inductive Status where
  | ok
  | none
  | illegal
  deriving DecidableEq, Repr

/-- The response of a port F command (R76): `f_status`, `f_data`, `f_frame`. -/
structure Response where
  status : Status
  data : Word64
  frame : FrameWord
  deriving DecidableEq, Repr

/-- The input signals of one step (R70, R207, R212, R230), chosen by the environment (log 1). -/
structure StepInput where
  /-- The reset input is asserted in this step (R230). -/
  rst : Bool
  /-- What the environment drives on the clock input; the sample never goes back (R207, log 2). -/
  tUs : Word64
  /-- The level of the switch pin (R212). -/
  pinSw : Bool
  /-- `p_valid` and `p_frame`. -/
  p : Option FrameWord
  /-- `f_valid` and `f_cmd`. -/
  f : Option CmdWord
  /-- Which of two simultaneous commands goes first: the spec leaves it open (R59, log 10). -/
  pFirst : Bool
  deriving DecidableEq, Repr

/-- The state: the block's registers, the constant of the instance, and what a step reads and shows. -/
structure State where
  /-- `CAPACITY` (R1): a constant of the instance, changed by no step (log 7). -/
  capacity : Index
  ring : RingState
  led : LedState
  sw : SwState
  /-- The clock sample of the current step (R207). An input. -/
  tUs : Word64
  /-- The switch pin in the current step (R212). An input. -/
  pinSw : Bool
  /-- The inputs of the steps to come, the next one first (log 1). -/
  inputs : List StepInput
  /-- The response on port F in the step just made, if it had a port F command (R76, log 4). -/
  resp : Option Response
  /-- How many free values `draw_64()` has given: the model's own counter (R8, log 5). -/
  draws : Nat
  deriving DecidableEq, Repr

/-- RING after reset (R231): no cell has a value. -/
def RingState.reset : RingState :=
  { cells := [], head := 0, tail := 0, full := false, size := 0, highWater := 0, puts := 0, gets := 0, overflows := 0 }

/-- LED after reset (R232). -/
def LedState.reset : LedState :=
  { mode := .off, level := false, fresh := false, phaseStart := 0, halfPeriod := Config.blinkHalfMs, pulseStart := 0
    pulseDur := Config.pulseShortMs, oe := false, cfgShort := Config.pulseShortMs, cfgLong := Config.pulseLongMs
    cfgHalf := Config.blinkHalfMs }

/-- SW after reset (R233): released, nothing changed. -/
def SwState.reset : SwState :=
  { raw := true, stable := true, changed := false, lastChangeTime := 0, currentStateStart := 0, lastStateDuration := 0
    activeHigh := false, cfgd := false, debounceMs := Config.debounceMs, mismatchStart := 0 }

/-- An instance of the given capacity right after reset, nothing issued yet (R46, R230). The fields `tUs`, `pinSw`, `inputs`, `resp`
and `draws` are no registers of the block: their values here are the model's (log 2, 3, 1, 4, 5). -/
def State.resetWith (capacity : Index) : State :=
  { capacity := capacity, ring := RingState.reset, led := LedState.reset, sw := SwState.reset
    tUs := 0, pinSw := false, inputs := [], resp := none, draws := 0 }

/-- The machine right after reset, for the capacity of Config (log 7). -/
def State.reset : State := State.resetWith Config.capacity

end Sys2Proof.Machine
end

