-- ==== Sys2Proof/Machine/Ops.lean ====
section
/-! DEFINITION. The named operations over cells, registers, clock and response (00_scope.md R7, R8; 20_memory.md R51, R52;
30_encoding.md R76; 60_exceptions.md R207, R208). There is no operation that takes or returns from an exception: the block
has neither (60_exceptions.md R200). -/

namespace Sys2Proof.Machine

/-- The outcome type of every meaning. -/
abbrev Result := Host.Outcome State Fault Refusal

/-! ## Arithmetic (R7) -/

/-- `sub32`: the elapsed time of two millisecond values, modulo 2^32. -/
def sub32 (a b : Word32) : Word32 := a - b

/-- `inc32`: a counter plus one, modulo 2^32. -/
def inc32 (c : Word32) : Word32 := c + 1

/-- `(i + 1) mod CAPACITY`, the sum taken before the reduction so that no carry is lost. -/
def advance (capacity i : Index) : Index := BitVec.ofNat 8 ((i.toNat + 1) % capacity.toNat)

/-- `max` of two unsigned values. -/
def maxIndex (a b : Index) : Index := if a.toNat ≤ b.toNat then b else a

/-! ## The cell array (R50, R51, log 6) -/

/-- The cell written at an index since reset, if any. -/
def Memory.lookup (m : Memory) (i : Nat) : Option TimedFrame :=
  match m with
  | [] => none
  | (j, c) :: rest => if j = i then some c else Memory.lookup rest i

/-- The content of a cell: the one written, else the free value of a cell never written (R11, U3). -/
def Memory.read (m : Memory) (i : Nat) : TimedFrame := (Memory.lookup m i).getD (Config.unwrittenCell i)

/-- Replace the whole cell at an index, keeping the indices strictly rising. -/
def Memory.write (m : Memory) (i : Nat) (c : TimedFrame) : Memory :=
  match m with
  | [] => [(i, c)]
  | (j, d) :: rest =>
    if i < j then (i, c) :: (j, d) :: rest
    else if i = j then (i, c) :: rest
    else (j, d) :: Memory.write rest i c

/-- Every index listed is above `lo`. -/
def Memory.above (lo : Nat) (m : Memory) : Bool :=
  match m with
  | [] => true
  | (j, _) :: rest => decide (lo < j) && Memory.above j rest

/-- The canonical form: indices strictly rising. An unlisted cell holds no value, so no entry equals what an unlisted cell holds. -/
def Memory.wf (m : Memory) : Bool :=
  match m with
  | [] => true
  | (j, _) :: rest => Memory.above j rest

/-! ## Register updates -/

/-- Replace the registers of RING. -/
def State.setRing (s : State) (r : RingState) : State := { s with ring := r }

/-- Replace the registers of LED. -/
def State.setLed (s : State) (l : LedState) : State := { s with led := l }

/-- Replace the registers of SW. -/
def State.setSw (s : State) (w : SwState) : State := { s with sw := w }

/-- `respond(status, data, frame)` (R8, R76). -/
def State.respond (s : State) (status : Status) (data : Word64) (frame : FrameWord) : State :=
  { s with resp := some { status := status, data := data, frame := frame } }

/-- `respond(OK, 0, 0)`: the response of an operation with no result (R78). -/
def State.respondOk (s : State) : State := s.respond .ok 0 0

/-- The answer of a query: status OK and a number (R78). -/
def State.respondData (s : State) (data : Word64) : State := s.respond .ok data 0

/-- Take one `draw_64()` (R8): the counter moves on, so that the next draw is another value (log 5). -/
def State.countDraw (s : State) : State := { s with draws := s.draws + 1 }

/-! ## Cell access (R51, R52) -/

/-- `CellRead(i)` (R8). An index that does not exist faults (R50, log 8). -/
def State.cellRead (s : State) (i : Index) : Except Fault TimedFrame :=
  if i.toNat < s.capacity.toNat then .ok (Memory.read s.ring.cells i.toNat) else .error (.noSuchCell i)

/-- `CellWrite(i, frame, stamp)` (R8): both parts at once (R51). An index that does not exist faults (R50, log 8). -/
def State.cellWrite (s : State) (i : Index) (c : TimedFrame) : Except Fault State :=
  if i.toNat < s.capacity.toNat then .ok (s.setRing { s.ring with cells := Memory.write s.ring.cells i.toNat c })
  else .error (.noSuchCell i)

/-! ## The clock (R207, R208) -/

/-- `nowMicros()` (R207): the one clock sample of the operation. -/
def State.nowMicros (s : State) : Word64 := s.tUs

/-- `nowMillis() = (t_us / 1000) mod 2^32` (R208). -/
def State.nowMillis (s : State) : Word32 := (s.tUs / 1000#64).setWidth 32

/-! ## Codes that the ports carry or the spec numbers -/

/-- `f_status` (R76). -/
def Status.code (x : Status) : BitVec 2 :=
  match x with
  | .ok => 0
  | .none => 1
  | .illegal => 2

/-- The numeric coding of `mode` (R30, D20). -/
def LedMode.code (m : LedMode) : BitVec 2 :=
  match m with
  | .off => 0
  | .on => 1
  | .blink => 2
  | .pulse => 3

/-- A Boolean result as `f_data` (R76). -/
def boolData (b : Bool) : Word64 := if b then 1 else 0

/-- An 8-bit result, `zext_64`. -/
def indexData (v : Index) : Word64 := v.setWidth 64

/-- A 32-bit result, `zext_64`. -/
def wordData (v : Word32) : Word64 := v.setWidth 64

end Sys2Proof.Machine
end

