-- ==== Sys2Proof/Machine/Flags.lean ====
section
/-! DEFINITION. The block's flags and derived predicates: `full`, `size`, `Empty`, `Available`, `FreeSlots` of RING (10_state.md R20,
R22; 40_ring.md R100), the timer tests of LED (41_indicator.md R136) and the sample and debounce tests of SW (10_state.md R42;
42_input.md R161). -/

namespace Sys2Proof.Machine

/-! ## RING -/

/-- `SizeOf(full, head, tail)` for CAPACITY at least 1, on unbounded integers (R20). -/
def sizeOf (capacity : Index) (full : Bool) (head tail : Index) : Index :=
  if full then capacity
  else if tail.toNat ≤ head.toNat then BitVec.ofNat 8 (head.toNat - tail.toNat)
  else BitVec.ofNat 8 (capacity.toNat + head.toNat - tail.toNat)

/-- The flag `full` after a put: the advanced `head` meets the `tail` (R100). -/
def fullAfterPut (head tail : Index) : Bool := decide (head = tail)

/-- `Empty` (R22). -/
def ringIsEmpty (r : RingState) : Bool := decide (r.size = 0) && !r.full

/-- `Available` (R22). -/
def ringIsAvailable (r : RingState) : Bool := decide (0 < r.size.toNat)

/-- `FreeSlots` (R22). -/
def ringFreeSlots (capacity : Index) (r : RingState) : Index := capacity - r.size

/-! ## LED -/

/-- `sub32(now, phaseStart) >= halfPeriod` (R136). -/
def blinkElapsed (l : LedState) (now : Word32) : Bool :=
  decide (l.halfPeriod.toNat ≤ (sub32 now l.phaseStart).toNat)

/-- `sub32(now, pulseStart) >= pulseDur` (R136). -/
def pulseElapsed (l : LedState) (now : Word32) : Bool :=
  decide (l.pulseDur.toNat ≤ (sub32 now l.pulseStart).toNat)

/-- The mode that goes with a level after a toggle: ON for 1, OFF for 0 (R133). -/
def modeOfLevel (level : Bool) : LedMode := if level then .on else .off

/-! ## SW -/

/-- The normalised sample `pin_sw XOR activeHigh`: 0 pressed, 1 released (R42). -/
def normalise (pin activeHigh : Bool) : Bool := xor pin activeHigh

/-- The start of the current run of differing samples: kept if the previous sample already differed, else now (R161). -/
def mismatchFrom (w : SwState) (now : Word32) : Word32 := if w.raw != w.stable then w.mismatchStart else now

/-- `sub32(now, start) >= debounceMs` (R161). -/
def debounced (w : SwState) (now start : Word32) : Bool := decide (w.debounceMs.toNat ≤ (sub32 now start).toNat)

/-- The debounced state is "pressed" (R163): stored 0 for either polarity (R42). -/
def swIsPressed (w : SwState) : Bool := !w.stable

end Sys2Proof.Machine
end

