-- ==== Sys2Proof/Machine/Led.lean ====
section
/-! DEFINITION. The meanings of the 11 LED operations (41_indicator.md R130 to R140). -/

namespace Sys2Proof.Machine

/-- The registers of LED after a run in BLINK: the first run lights the LED and starts the phase, a later one inverts the level when
the half-period has elapsed (R136). -/
def ledAfterBlinkRun (l : LedState) (now : Word32) : LedState :=
  if l.fresh then { l with level := true, phaseStart := now, fresh := false }
  else if blinkElapsed l now then { l with level := !l.level, phaseStart := now }
  else l

/-- The registers of LED after a run in PULSE: the pulse ends when its duration has elapsed (R136). -/
def ledAfterPulseRun (l : LedState) (now : Word32) : LedState :=
  if pulseElapsed l now then { l with level := false, mode := .off } else l

/-- The registers of LED after a run (R136): in OFF and ON nothing changes. -/
def ledAfterRun (l : LedState) (now : Word32) : LedState :=
  match l.mode with
  | .off => l
  | .on => l
  | .blink => ledAfterBlinkRun l now
  | .pulse => ledAfterPulseRun l now

/-- `LED.SETPIN` (R130). -/
def execLedSetpin (s : State) : Result :=
  .next ((s.setLed { s.led with oe := true, level := false, mode := .off, fresh := false }).respondOk)

/-- `LED.ON` (R131). -/
def execLedOn (s : State) : Result :=
  .next ((s.setLed { s.led with mode := .on, level := true, fresh := false }).respondOk)

/-- `LED.OFF` (R132). -/
def execLedOff (s : State) : Result :=
  .next ((s.setLed { s.led with mode := .off, level := false, fresh := false }).respondOk)

/-- `LED.TOGGLE` (R133). -/
def execLedToggle (s : State) : Result :=
  .next ((s.setLed { s.led with level := !s.led.level, mode := modeOfLevel (!s.led.level), fresh := false }).respondOk)

/-- `LED.BLINK` (R134): the level is not written. -/
def execLedBlink (s : State) : Result :=
  .next ((s.setLed { s.led with mode := .blink, fresh := true, halfPeriod := s.led.cfgHalf }).respondOk)

/-- `LED.PULSE` (R135): `short` selects the duration that is latched. -/
def execLedPulse (short : Bool) (s : State) : Result :=
  .next ((s.setLed { s.led with
    mode := .pulse
    level := true
    fresh := false
    pulseStart := s.nowMillis
    pulseDur := if short then s.led.cfgShort else s.led.cfgLong }).respondOk)

/-- `LED.RUN` (R136). -/
def execLedRun (s : State) : Result := .next ((s.setLed (ledAfterRun s.led s.nowMillis)).respondOk)

/-- `LED.GETSTATE` (R137): the level, not the mode. -/
def execLedGetstate (s : State) : Result := .next (s.respondData (boolData s.led.level))

/-- `LED.SETSHORT` (R138). -/
def execLedSetshort (ms : Word32) (s : State) : Result := .next ((s.setLed { s.led with cfgShort := ms }).respondOk)

/-- `LED.SETLONG` (R139). -/
def execLedSetlong (ms : Word32) (s : State) : Result := .next ((s.setLed { s.led with cfgLong := ms }).respondOk)

/-- `LED.SETHALF` (R140). -/
def execLedSethalf (ms : Word32) (s : State) : Result := .next ((s.setLed { s.led with cfgHalf := ms }).respondOk)

end Sys2Proof.Machine
end

