-- ==== Sys2Proof/Machine/Ring.lean ====
section
/-! DEFINITION. The meanings of the 14 RING operations (40_ring.md R100 to R113), each with its behaviour for CAPACITY = 0 (R116). -/

namespace Sys2Proof.Machine

/-- The registers of RING after a put whose cell is written, read top to bottom as R100 has it. -/
def ringAfterPut (capacity : Index) (r : RingState) : RingState :=
  let head := advance capacity r.head
  let tail := if r.full then advance capacity r.tail else r.tail
  let full := fullAfterPut head tail
  let size := sizeOf capacity full head tail
  { r with
    head := head
    tail := tail
    full := full
    size := size
    highWater := maxIndex r.highWater size
    puts := inc32 r.puts
    overflows := if r.full then inc32 r.overflows else r.overflows }

/-- The registers of a ring without cells after a put: the frame is lost and counted (R116). -/
def ringAfterLostPut (r : RingState) : RingState :=
  { r with puts := inc32 r.puts, overflows := inc32 r.overflows }

/-- The registers of RING after a get that returns a frame (R102). -/
def ringAfterGet (capacity : Index) (r : RingState) : RingState :=
  let tail := advance capacity r.tail
  { r with tail := tail, full := false, size := sizeOf capacity false r.head tail, gets := inc32 r.gets }

/-- The registers of RING after a clear (R104). -/
def ringAfterClear (r : RingState) : RingState :=
  { r with head := 0, tail := 0, full := false, size := 0 }

/-- Peek and get find no frame: the ring is empty, or has no cells (R101, R102, R116). -/
def State.ringHasNone (s : State) : Bool := decide (s.capacity = 0) || decide (s.ring.size = 0)

/-- The answer of a query that reads a register of a ring with cells, and what R116 says it answers for CAPACITY = 0. -/
def ringQuery (s : State) (answer atZero : Word64) : Result :=
  .next (s.respondData (if s.capacity = 0 then atZero else answer))

/-- `RING.PUT` (R100, R116). A term that is not a Frame is refused (R23, U5). -/
def execRingPut (frame : Frame) (s : State) : Result :=
  if frame.wellFormed = false then .refused (.notAFrame frame.len)
  else if s.capacity = 0 then .next (s.setRing (ringAfterLostPut s.ring))
  else
    match s.cellWrite s.ring.head { frame := frame, stamp := s.nowMicros } with
    | .error e => .fault e
    | .ok s' => .next (s'.setRing (ringAfterPut s.capacity s'.ring))

/-- `RING.PEEK` (R101). -/
def execRingPeek (s : State) : Result :=
  if s.ringHasNone = true then .next (s.respond .none 0 0)
  else
    match s.cellRead s.ring.tail with
    | .error e => .fault e
    | .ok c => .next (s.respond .ok 0 (packFrame c.frame))

/-- `RING.GET` (R102). -/
def execRingGet (s : State) : Result :=
  if s.ringHasNone = true then .next (s.respond .none 0 0)
  else
    match s.cellRead s.ring.tail with
    | .error e => .fault e
    | .ok c => .next ((s.setRing (ringAfterGet s.capacity s.ring)).respond .ok 0 (packFrame c.frame))

/-- `RING.INSERTTIME` (R103): on an empty ring a draw, a free value (U1, log 5). -/
def execRingInserttime (s : State) : Result :=
  if s.ringHasNone = true then .next (s.countDraw.respondData (Config.freeStamp s.draws))
  else
    match s.cellRead s.ring.tail with
    | .error e => .fault e
    | .ok c => .next (s.respondData c.stamp)

/-- `RING.CLEAR` (R104). -/
def execRingClear (s : State) : Result := .next ((s.setRing (ringAfterClear s.ring)).respondOk)

/-- `RING.SIZE` (R105). -/
def execRingSize (s : State) : Result := ringQuery s (indexData s.ring.size) 0

/-- `RING.EMPTY` (R106). -/
def execRingEmpty (s : State) : Result := ringQuery s (boolData (ringIsEmpty s.ring)) 1

/-- `RING.FULL` (R107). -/
def execRingFull (s : State) : Result := ringQuery s (boolData s.ring.full) 0

/-- `RING.AVAILABLE` (R108). -/
def execRingAvailable (s : State) : Result := ringQuery s (boolData (ringIsAvailable s.ring)) 0

/-- `RING.FREESLOTS` (R109). -/
def execRingFreeslots (s : State) : Result := ringQuery s (indexData (ringFreeSlots s.capacity s.ring)) 0

/-- `RING.HIGHWATER` (R110). -/
def execRingHighwater (s : State) : Result := ringQuery s (indexData s.ring.highWater) 0

/-- `RING.PUTS` (R111); R116 answers the counter too. -/
def execRingPuts (s : State) : Result := .next (s.respondData (wordData s.ring.puts))

/-- `RING.GETS` (R112); R116 answers the counter too. -/
def execRingGets (s : State) : Result := .next (s.respondData (wordData s.ring.gets))

/-- `RING.OVERFLOWS` (R113); R116 answers the counter too. -/
def execRingOverflows (s : State) : Result := .next (s.respondData (wordData s.ring.overflows))

end Sys2Proof.Machine
end

