-- ==== Sys2Proof/Machine/Sw.lean ====
section
/-! DEFINITION. The meanings of the 10 SW operations (42_input.md R160 to R169). -/

namespace Sys2Proof.Machine

/-- The registers of SW after the flip to `sample` (R161): the four time registers are written from the same `now`. -/
def swAfterFlip (w : SwState) (sample : Bool) (now : Word32) : SwState :=
  { w with
    stable := sample
    lastStateDuration := sub32 now w.currentStateStart
    currentStateStart := now
    lastChangeTime := now
    changed := true }

/-- The registers of SW after a run that reads the normalised sample (R161). `mismatchFrom` looks at `raw` before it is written. -/
def swAfterRun (w : SwState) (sample : Bool) (now : Word32) : SwState :=
  let start := mismatchFrom w now
  if sample != w.stable then
    if debounced w now start then swAfterFlip { w with raw := sample, mismatchStart := start } sample now
    else { w with raw := sample, mismatchStart := start }
  else { w with raw := sample }

/-- `SW.SETPIN` (R160). -/
def execSwSetpin (activeHigh : Bool) (s : State) : Result :=
  .next ((s.setSw { s.sw with activeHigh := activeHigh, cfgd := true }).respondOk)

/-- `SW.RUN` (R161). -/
def execSwRun (s : State) : Result :=
  .next ((s.setSw (swAfterRun s.sw (normalise s.pinSw s.sw.activeHigh) s.nowMillis)).respondOk)

/-- `SW.GETSTATE` (R162): the debounced level, normalised (C3). -/
def execSwGetstate (s : State) : Result := .next (s.respondData (boolData s.sw.stable))

/-- `SW.ISPRESSED` (R163). -/
def execSwIspressed (s : State) : Result := .next (s.respondData (boolData (swIsPressed s.sw)))

/-- `SW.STATECHANGED` (R164): answers the flag and clears it. -/
def execSwStatechanged (s : State) : Result :=
  .next ((s.setSw { s.sw with changed := false }).respondData (boolData s.sw.changed))

/-- `SW.CURDURATION` (R165): the clock is read at the query. -/
def execSwCurduration (s : State) : Result :=
  .next (s.respondData (wordData (sub32 s.nowMillis s.sw.currentStateStart)))

/-- `SW.LASTDURATION` (R166). -/
def execSwLastduration (s : State) : Result := .next (s.respondData (wordData s.sw.lastStateDuration))

/-- `SW.LASTCHANGETIME` (R167). -/
def execSwLastchangetime (s : State) : Result := .next (s.respondData (wordData s.sw.lastChangeTime))

/-- `SW.RESETDURATION` (R168). -/
def execSwResetduration (s : State) : Result :=
  .next ((s.setSw { s.sw with currentStateStart := s.nowMillis }).respondOk)

/-- `SW.SETDEBOUNCE` (R169). -/
def execSwSetdebounce (ms : Word32) (s : State) : Result := .next ((s.setSw { s.sw with debounceMs := ms }).respondOk)

end Sys2Proof.Machine
end

