-- ==== Sys2Proof/Machine/Dispatch.lean ====
section
/-! DEFINITION. The dispatcher: one arm per operation of 30_encoding.md R75, each one call of its meaning. -/

namespace Sys2Proof.Machine

def exec (i : Instr) (s : State) : Host.Outcome State Fault Refusal :=
  match i with
  | .ringPut frame => Sys2Proof.Machine.execRingPut frame s
  | .ringPeek => Sys2Proof.Machine.execRingPeek s
  | .ringGet => Sys2Proof.Machine.execRingGet s
  | .ringInserttime => Sys2Proof.Machine.execRingInserttime s
  | .ringClear => Sys2Proof.Machine.execRingClear s
  | .ringSize => Sys2Proof.Machine.execRingSize s
  | .ringEmpty => Sys2Proof.Machine.execRingEmpty s
  | .ringFull => Sys2Proof.Machine.execRingFull s
  | .ringAvailable => Sys2Proof.Machine.execRingAvailable s
  | .ringFreeslots => Sys2Proof.Machine.execRingFreeslots s
  | .ringHighwater => Sys2Proof.Machine.execRingHighwater s
  | .ringPuts => Sys2Proof.Machine.execRingPuts s
  | .ringGets => Sys2Proof.Machine.execRingGets s
  | .ringOverflows => Sys2Proof.Machine.execRingOverflows s
  | .ledSetpin => Sys2Proof.Machine.execLedSetpin s
  | .ledOn => Sys2Proof.Machine.execLedOn s
  | .ledOff => Sys2Proof.Machine.execLedOff s
  | .ledToggle => Sys2Proof.Machine.execLedToggle s
  | .ledBlink => Sys2Proof.Machine.execLedBlink s
  | .ledPulse b => Sys2Proof.Machine.execLedPulse b s
  | .ledRun => Sys2Proof.Machine.execLedRun s
  | .ledGetstate => Sys2Proof.Machine.execLedGetstate s
  | .ledSetshort ms => Sys2Proof.Machine.execLedSetshort ms s
  | .ledSetlong ms => Sys2Proof.Machine.execLedSetlong ms s
  | .ledSethalf ms => Sys2Proof.Machine.execLedSethalf ms s
  | .swSetpin b => Sys2Proof.Machine.execSwSetpin b s
  | .swRun => Sys2Proof.Machine.execSwRun s
  | .swGetstate => Sys2Proof.Machine.execSwGetstate s
  | .swIspressed => Sys2Proof.Machine.execSwIspressed s
  | .swStatechanged => Sys2Proof.Machine.execSwStatechanged s
  | .swCurduration => Sys2Proof.Machine.execSwCurduration s
  | .swLastduration => Sys2Proof.Machine.execSwLastduration s
  | .swLastchangetime => Sys2Proof.Machine.execSwLastchangetime s
  | .swResetduration => Sys2Proof.Machine.execSwResetduration s
  | .swSetdebounce ms => Sys2Proof.Machine.execSwSetdebounce ms s

end Sys2Proof.Machine
end

