-- ==== Sys2Proof/Machine/Fetch.lean ====
section
/-! DEFINITION. The inputs of a step: what the ports, the clock, the pin and the reset input present, and how a command comes to be
the next one (30_encoding.md R70; 60_exceptions.md R207, R212; 70_reset_and_hazards.md R230; log 1, 2, 10, 11, 18). -/

namespace Sys2Proof.Machine

/-- A step with no valid command, in which clock and pin stay as they are (R70). -/
def State.idleInput (s : State) : StepInput :=
  { rst := false, tUs := s.tUs, pinSw := s.pinSw, p := none, f := none, pFirst := false }

/-- The signals of the next step and the inputs after them. Past the end of the list nothing is valid (log 18). -/
def State.nextInput (s : State) : StepInput × List StepInput :=
  match s.inputs with
  | [] => (s.idleInput, [])
  | e :: rest => (e, rest)

/-- The clock sample: what the environment drives, but never less than the sample before it (R207, log 2). -/
def clockSample (last driven : Word64) : Word64 := if last.toNat ≤ driven.toNat then driven else last

/-- Take the signals of a step: the clock and pin samples, no response yet. -/
def State.latch (s : State) (e : StepInput) (rest : List StepInput) : State :=
  { s with inputs := rest, tUs := clockSample s.tUs e.tUs, pinSw := e.pinSw, resp := none }

/-- The commands of a step in the order they take effect; when both ports are valid the order is the environment's (R58, R59). -/
def StepInput.commands (e : StepInput) : List Command :=
  match e.p, e.f with
  | none, none => []
  | some p, none => [.p p]
  | none, some f => [.f f]
  | some p, some f => if e.pFirst then [.p p, .f f] else [.f f, .p p]

/-- The reset input: every register of the block is as R231 to R233 say; CAPACITY stays (R230, log 11). -/
def State.applyReset (s : State) : State :=
  { s with ring := RingState.reset, led := LedState.reset, sw := SwState.reset }

/-- A step that presents one command and leaves clock and pin as they are. -/
def State.inputOf (s : State) (c : Command) : StepInput :=
  match c with
  | .p w => { rst := false, tUs := s.tUs, pinSw := s.pinSw, p := some w, f := none, pFirst := false }
  | .f w => { rst := false, tUs := s.tUs, pinSw := s.pinSw, p := none, f := some w, pFirst := false }

/-- Present a command in the next step, before the inputs already listed. -/
def State.present (s : State) (c : Command) : State := { s with inputs := s.inputOf c :: s.inputs }

end Sys2Proof.Machine
end

