-- ==== Sys2Proof/Machine/Issue.lean ====
section
/-! DEFINITION. Issuing the commands of a step: decode, then the operation, or the answer to a word that is no operation
(30_encoding.md R80; 60_exceptions.md R202, R205). -/

namespace Sys2Proof.Machine

/-- The answer to a word that decodes to no operation: ILLEGAL for a reserved opcode, with no change of a register (R80, R202); a
port P word that is not a Frame is refused (U5, log 9). -/
def rejectCommand (e : DecodeError) (s : State) : Result :=
  match e with
  | .reservedOpcode _ => .next (s.respond .illegal 0 0)
  | .notAFrame len => .refused (.notAFrame len)

/-- One command: one atomic transition (R58). -/
def runCommand (c : Command) (s : State) : Result :=
  match decode c with
  | .ok i => exec i s
  | .error e => rejectCommand e s

/-- The commands of a step, one after the other (R59). -/
def runCommands (cs : List Command) (s : State) : Result :=
  match cs with
  | [] => .next s
  | c :: rest =>
    match runCommand c s with
    | .next s' => runCommands rest s'
    | .fault r => .fault r
    | .refused r => .refused r

/-- A step with the given signals: reset, and then no command is accepted (R230), or the commands presented. -/
def runInput (e : StepInput) (s : State) : Result :=
  if e.rst then .next s.applyReset else runCommands e.commands s

end Sys2Proof.Machine
end

