-- ==== Sys2Proof/Machine/Step.lean ====
section
/-! DEFINITION. One step of the block: take the next input signals, then do what they ask (30_encoding.md R70). -/

namespace Sys2Proof.Machine

/-- One step. With no valid command the registers do not change (R70). -/
def step (s : State) : Host.Outcome State Fault Refusal :=
  runInput s.nextInput.1 (s.latch s.nextInput.1 s.nextInput.2)

/-- `s` with the command of an opcode-table word presented on its port in the next step; nothing else differs (log 1, 12). -/
def State.withFetchWord (s : State) (nbits w : Nat) : State := s.present (commandOfTableWord nbits w)

end Sys2Proof.Machine
end

