-- ==== Sys2Proof/Machine/Pins.lean ====
section
/-! DEFINITION. The output pins, functions of the state (10_state.md R33, R44; 60_exceptions.md R211). -/

namespace Sys2Proof.Machine

/-- `led_out = level` (R33). -/
def State.ledOut (s : State) : Bool := s.led.level

/-- `led_oe = oe` (R33). -/
def State.ledOe (s : State) : Bool := s.led.oe

/-- `sw_pull_up = cfgd AND NOT activeHigh` (R44). -/
def State.swPullUp (s : State) : Bool := s.sw.cfgd && !s.sw.activeHigh

/-- `sw_pull_down = cfgd AND activeHigh` (R44). -/
def State.swPullDown (s : State) : Bool := s.sw.cfgd && s.sw.activeHigh

end Sys2Proof.Machine
end

