-- ==== Sys2Proof/Safety.lean ====
section
/-! DEFINITION. What counts as a safe state and a safe run, and the terms the statements use: the invariants of 10_state.md R21 and
R32, the unread frames in order, the bounded queue of 40_ring.md R114, runs of many steps and what the inputs of a run ask. None of
it is used by the machine. -/

namespace Sys2Proof.Machine

/-! ## Invariants -/

/-- R21 items 1 to 6 for a ring with cells, and that the array is in canonical form, lists only cells that exist, and lists every
occupied cell (U3: an occupied cell was written by a put). -/
def RingInvPos (capacity : Index) (r : RingState) : Prop :=
  r.head.toNat < capacity.toNat ∧ r.tail.toNat < capacity.toNat
  ∧ r.size.toNat ≤ capacity.toNat
  ∧ r.size.toNat = (if r.full then capacity.toNat else (r.head.toNat + capacity.toNat - r.tail.toNat) % capacity.toNat)
  ∧ (r.full = true ↔ r.size = capacity)
  ∧ (r.full = true → r.head = r.tail)
  ∧ (r.size = 0 ↔ r.head = r.tail ∧ r.full = false)
  ∧ r.size.toNat ≤ r.highWater.toNat ∧ r.highWater.toNat ≤ capacity.toNat
  ∧ Memory.wf r.cells = true
  ∧ (∀ c ∈ r.cells, c.1 < capacity.toNat)
  ∧ (∀ k < r.size.toNat, (Memory.lookup r.cells ((r.tail.toNat + k) % capacity.toNat)).isSome = true)

/-- What R116 keeps for a ring without cells: nothing but `puts` and `overflows` ever moves. -/
def RingInvZero (r : RingState) : Prop :=
  r.cells = [] ∧ r.head = 0 ∧ r.tail = 0 ∧ r.full = false ∧ r.size = 0 ∧ r.highWater = 0 ∧ r.gets = 0

/-- The ring invariant for every capacity. -/
def RingInv (capacity : Index) (r : RingState) : Prop :=
  (capacity = 0 → RingInvZero r) ∧ (capacity ≠ 0 → RingInvPos capacity r)

/-- The LED invariant (R32). -/
def LedInv (l : LedState) : Prop :=
  (l.mode = .off → l.level = false) ∧ (l.mode = .on → l.level = true) ∧ (l.mode = .pulse → l.level = true)
  ∧ (l.fresh = true → l.mode = .blink)

/-- The invariant of the block. -/
def BlockInv (s : State) : Prop := RingInv s.capacity s.ring ∧ LedInv s.led

/-- R21 item 9 modulo 2^32 (R242): `overflows == puts - gets - size`. -/
def CountsAgree (r : RingState) : Prop := r.overflows + r.gets + r.size.setWidth 32 = r.puts

/-- R21 item 8 with its account: every put is still unread, was got, was overwritten or was cleared. -/
def PutsCover (r : RingState) : Prop := r.gets.toNat + r.overflows.toNat + r.size.toNat ≤ r.puts.toNat

/-! ## The ring as a queue -/

/-- `SizeOf` of R20 on unbounded integers. -/
def sizeFormula (capacity : Nat) (full : Bool) (head tail : Nat) : Nat :=
  if full then capacity else if tail ≤ head then head - tail else capacity + head - tail

/-- The unread frames, oldest first: the cells `tail, tail+1, ..` modulo CAPACITY (R21 item 7). -/
def ringContents (capacity : Index) (r : RingState) : List TimedFrame :=
  (List.range r.size.toNat).map fun k => Memory.read r.cells ((r.tail.toNat + k) % capacity.toNat)

/-- The unread frames of a state. -/
def State.contents (s : State) : List TimedFrame := ringContents s.capacity s.ring

/-- What an operation does to a queue of at most `capacity` entries (R114, R115): a put into a full queue loses the oldest. -/
def queueAfter (capacity : Nat) (now : Word64) (i : Instr) (q : List TimedFrame) : List TimedFrame :=
  match i with
  | .ringPut f =>
    if capacity = 0 then q else (if q.length = capacity then q.tail else q) ++ [{ frame := f, stamp := now }]
  | .ringGet => q.tail
  | .ringClear => []
  | _ => q

/-- The response of a peek or a get on a queue (R101, R102). -/
def oldestFrame (q : List TimedFrame) : Response :=
  match q with
  | [] => { status := .none, data := 0, frame := 0 }
  | c :: _ => { status := .ok, data := 0, frame := packFrame c.frame }

/-- Capture stamps never decrease along the queue and none is later than the clock (R64). -/
def StampsOrdered (s : State) : Prop :=
  s.contents.Pairwise (fun a b => a.stamp.toNat ≤ b.stamp.toNat) ∧ ∀ c ∈ s.contents, c.stamp.toNat ≤ s.tUs.toNat

/-! ## Frames and instructions -/

/-- Payload byte `i` of R23. -/
def payloadLane (d : Payload) (i : Nat) : Byte :=
  match i with
  | 0 => d.b0
  | 1 => d.b1
  | 2 => d.b2
  | 3 => d.b3
  | 4 => d.b4
  | 5 => d.b5
  | 6 => d.b6
  | _ => d.b7

/-- The reserved opcodes of port F, as R80 lists them. -/
def reservedOnF (op : BitVec 8) : Bool :=
  decide (op.toNat = 0x00 ∨ op.toNat = 0x0E ∨ op.toNat = 0x0F ∨ (0x1B ≤ op.toNat ∧ op.toNat ≤ 0x1F)
    ∨ (0x2A ≤ op.toNat ∧ op.toNat ≤ 0x2F) ∨ 0x30 ≤ op.toNat)

/-- The opcodes whose operand form is *flag* (R79). -/
def flagFormOp (op : BitVec 8) : Bool := decide (op = 0x15 ∨ op = 0x20)

/-- The opcodes whose operand form is *ms* (R79). -/
def msFormOp (op : BitVec 8) : Bool := decide (op = 0x18 ∨ op = 0x19 ∨ op = 0x1A ∨ op = 0x29)

/-- The operations that read the clock (R209). -/
def readsClock (i : Instr) : Bool :=
  match i with
  | .ringPut _ => true
  | .ledPulse _ => true
  | .ledRun => true
  | .swRun => true
  | .swCurduration => true
  | .swResetduration => true
  | _ => false

/-- An operation of the unit that `op[7:4]` selects (R72): 0 RING, 1 LED, 2 SW. -/
def unitOf (i : Instr) : Nat := opUnit (opcodeOf i)

/-! ## Results and runs -/

/-- Apply a function to the next state, if there is one. -/
def mapNext (g : State → State) (r : Result) : Result :=
  match r with
  | .next s => .next (g s)
  | .fault e => .fault e
  | .refused e => .refused e

/-- Go on from a next state, if there is one. -/
def andThen (r : Result) (g : State → Result) : Result :=
  match r with
  | .next s => g s
  | .fault e => .fault e
  | .refused e => .refused e

/-- The response on port F of a result. -/
def respOf (r : Result) : Option Response :=
  match r with
  | .next s => s.resp
  | .fault _ => none
  | .refused _ => none

/-- `k` steps, stopping at the first that has no next state. -/
def runSteps (k : Nat) (s : State) : Result :=
  match k with
  | 0 => .next s
  | k + 1 =>
    match step s with
    | .next t => runSteps k t
    | .fault e => .fault e
    | .refused e => .refused e

/-- The operation a step's port F command asks for, if it asks for one. -/
def StepInput.foreground (e : StepInput) : Option Instr :=
  match e.f with
  | none => none
  | some w =>
    match decode (.f w) with
    | .ok i => some i
    | .error _ => none

/-- The millisecond value of a clock sample (R208). -/
def millisOf (t : Word64) : Word32 := BitVec.ofNat 32 (t.toNat / 1000)

/-- Every input, with the millisecond value of its clock sample, satisfies a test; `last` is the clock before them. -/
def allSamples (test : StepInput → Word32 → Bool) (last : Word64) (es : List StepInput) : Bool :=
  match es with
  | [] => true
  | e :: rest =>
    test e (millisOf (clockSample last e.tUs)) && allSamples test (clockSample last e.tUs) rest

/-- The clock sample after some inputs. -/
def clockAfter (last : Word64) (es : List StepInput) : Word64 :=
  match es with
  | [] => last
  | e :: rest => clockAfter (clockSample last e.tUs) rest

/-- A step that leaves pulses and blinks to LED.RUN: no reset, no LED command but RUN, GETSTATE and the SET commands (R142, R143). -/
def ledQuiet (e : StepInput) : Bool :=
  !e.rst &&
    match e.foreground with
    | some .ledSetpin => false
    | some .ledOn => false
    | some .ledOff => false
    | some .ledToggle => false
    | some .ledBlink => false
    | some (.ledPulse _) => false
    | _ => true

/-- A step that issues LED.RUN. -/
def isLedRun (e : StepInput) : Bool := !e.rst && decide (e.foreground = some .ledRun)

/-- A step that issues SW.RUN. -/
def isSwRun (e : StepInput) : Bool := !e.rst && decide (e.foreground = some .swRun)

/-- A step that does not touch the debounce: no reset, no SW.RUN, SW.SETPIN or SW.SETDEBOUNCE. -/
def swQuiet (e : StepInput) : Bool :=
  !e.rst &&
    match e.foreground with
    | some .swRun => false
    | some (.swSetpin _) => false
    | some (.swSetdebounce _) => false
    | _ => true

/-- A SW.RUN whose normalised sample differs from the debounced state of `w` (R42, R161). -/
def differingRun (w : SwState) (e : StepInput) : Bool := isSwRun e && (xor e.pinSw w.activeHigh != w.stable)

/-- At least `d` milliseconds from `start` to `now`, modulo 2^32 (R7). -/
def elapsedAtLeast (d start now : Word32) : Bool := decide (d.toNat ≤ (now - start).toNat)

end Sys2Proof.Machine
end

