-- ==== Sys2Proof/Certificates/Slice0/Obligations.lean ====
section
/-! DEFINITION. The statements for the provers, one `def Obligations.<Name> : Prop` each, listed in OBLIGATIONS.json. -/

open Sys2Proof Sys2Proof.Machine

/-! ## Encoding -/

/-- 30_encoding.md R71, R73, R75, R79: decoding the word of a well-formed instruction gives it back, every operand at every value. -/
def Obligations.DecodeInvertsEncode : Prop :=
  ∀ i : Instr, wellFormed i = true → decode (encode i) = .ok i

/-- 30_encoding.md R73, R75, R79: what decodes is well-formed, and encoding it again gives a word on the same port with the same
opcode that decodes to it, the very same word on port P. -/
def Obligations.EncodeKeepsWhatDecodeReads : Prop :=
  ∀ (c : Command) (i : Instr), decode c = .ok i →
    wellFormed i = true ∧ decode (encode i) = .ok i
    ∧ portOf (encode i) = portOf c ∧ commandOpcode (encode i) = commandOpcode c
    ∧ (∀ w, c = .p w → encode i = .p w)

/-- 30_encoding.md R73: where each field of a frame lies in the 102 bits, in both directions, and the rule's worked example. -/
def Obligations.FramePackingLayout : Prop :=
  (∀ f : Frame,
    (packFrame f).extractLsb' 0 32 = f.id ∧ (packFrame f).getLsbD 32 = f.ext ∧ (packFrame f).getLsbD 33 = f.rtr
    ∧ (packFrame f).extractLsb' 34 4 = f.len
    ∧ ∀ i < 8, (packFrame f).extractLsb' (38 + 8 * i) 8 = payloadLane f.data i)
  ∧ (∀ (w : FrameWord) (f : Frame), frameFields w = f ↔ packFrame f = w)
  ∧ packFrame { id := 1, ext := false, rtr := false, len := 2
                data := { b0 := 0xAA, b1 := 0xBB, b2 := 0, b3 := 0, b4 := 0, b5 := 0, b6 := 0, b7 := 0 } }
      = 0x2EEA8800000001#102

/-- 30_encoding.md R80: every reserved opcode on port F answers ILLEGAL, for every operand and state, and changes nothing but the
response; every other opcode decodes. What the step does with such a word is in StepRunsForegroundCommand and, beside a put, in
StepRunsBothCommandsInOrder. -/
def Obligations.ReservedOpcodesAnswerIllegal : Prop :=
  ∀ (op : BitVec 8) (arg : Word32),
    (reservedOnF op = true →
      ∀ s : State, runCommand (.f (op ++ arg)) s = .next { s with resp := some { status := .illegal, data := 0, frame := 0 } })
    ∧ (reservedOnF op = false → ∃ i, decode (.f (op ++ arg)) = .ok i)

/-- 30_encoding.md R82: of the 256 opcodes 34 decode to an operation on port F. -/
def Obligations.ThirtyFourOpcodesDecode : Prop :=
  ((List.range 256).filter fun n => (decodeF (BitVec.ofNat 8 n ++ 0#32)).toBool).length = 34

/-- 30_encoding.md R81 with the operand forms of R79: bits that the form does not read have no effect on what is decoded. -/
def Obligations.UnreadOperandBitsIgnored : Prop :=
  ∀ (op : BitVec 8) (arg arg' : Word32),
    (flagFormOp op = false → msFormOp op = false → decode (.f (op ++ arg)) = decode (.f (op ++ arg')))
    ∧ (flagFormOp op = true → arg.getLsbD 0 = arg'.getLsbD 0 → decode (.f (op ++ arg)) = decode (.f (op ++ arg')))

/-- 30_encoding.md R85: which operation a port F word selects depends on `op` alone. -/
def Obligations.OperationDependsOnOpcodeAlone : Prop :=
  ∀ (w w' : CmdWord) (i : Instr), cmdOp w = cmdOp w' → decode (.f w) = .ok i →
    opcodeOf i = cmdOp w ∧ ∃ j, decode (.f w') = .ok j ∧ opcodeOf j = opcodeOf i ∧ mnemonicOf j = mnemonicOf i

/-- Words of the spec's own vectors (V-DEC-1, V-PACK-1) decode as it says. -/
def Obligations.SampleWordsDecode : Prop :=
  decode (.f 0x0100000000) = .ok .ringPeek ∧ decode (.f 0x05DEADBEEF) = .ok .ringSize
  ∧ decode (.f 0x1500000003) = .ok (.ledPulse true) ∧ decode (.f 0x15FFFFFFFE) = .ok (.ledPulse false)
  ∧ decode (.f 0x18000000FA) = .ok (.ledSetshort 250) ∧ decode (.f 0x2000000001) = .ok (.swSetpin true)
  ∧ decode (.f 0x2900000032) = .ok (.swSetdebounce 50)
  ∧ decode (.p 0x2000007FF) = .ok (.ringPut { id := 0x7FF, ext := false, rtr := true, len := 0
                                              data := { b0 := 0, b1 := 0, b2 := 0, b3 := 0, b4 := 0, b5 := 0, b6 := 0, b7 := 0 } })

/-- 60_exceptions.md R203 and 20_memory.md R62: port P can express a put and nothing else, port F every operation but the put. -/
def Obligations.PortsSplitTheOperations : Prop :=
  (∀ (w : FrameWord) (i : Instr), decode (.p w) = .ok i → ∃ f, i = .ringPut f)
  ∧ (∀ (w : CmdWord) (f : Frame), decode (.f w) ≠ .ok (.ringPut f))
  ∧ (∀ i : Instr, (∀ f, i ≠ .ringPut f) → ∃ w, decode (.f w) = .ok i)

/-! ## The step -/

/-- A step with one port F command runs exactly the decoded operation, on the state with the step's signals taken; with a reserved
opcode (30_encoding.md R80) it takes the step's signals, answers ILLEGAL and changes nothing else. -/
def Obligations.StepRunsForegroundCommand : Prop :=
  ∀ (s : State) (e : StepInput) (rest : List StepInput) (w : CmdWord),
    s.inputs = e :: rest → e.rst = false → e.p = none → e.f = some w →
    (∀ i, decode (.f w) = .ok i →
      step s = exec i { s with inputs := rest, tUs := if s.tUs.toNat ≤ e.tUs.toNat then e.tUs else s.tUs
                               pinSw := e.pinSw, resp := none })
    ∧ (reservedOnF (cmdOp w) = true →
      step s = .next { s with inputs := rest, tUs := if s.tUs.toNat ≤ e.tUs.toNat then e.tUs else s.tUs
                              pinSw := e.pinSw, resp := some { status := .illegal, data := 0, frame := 0 } })

/-- A step with one port P command runs exactly the decoded put, on the state with the step's signals taken; a word whose length
field is 9 to 15 is not a Frame, and the step refuses it (10_state.md R23, U5, log 9). -/
def Obligations.StepRunsProducerCommand : Prop :=
  ∀ (s : State) (e : StepInput) (rest : List StepInput) (w : FrameWord),
    s.inputs = e :: rest → e.rst = false → e.p = some w → e.f = none →
    (∀ i, decode (.p w) = .ok i →
      step s = exec i { s with inputs := rest, tUs := if s.tUs.toNat ≤ e.tUs.toNat then e.tUs else s.tUs
                               pinSw := e.pinSw, resp := none })
    ∧ (9 ≤ (w.extractLsb' 34 4).toNat → step s = .refused (.notAFrame (w.extractLsb' 34 4)))

/-- 20_memory.md R59: two commands of one step are both performed, one after the other, in the order the environment chooses. A
reserved opcode beside a put answers ILLEGAL (30_encoding.md R80) and the put is performed, in either order. A port P word that is
not a Frame is refused when its turn comes (10_state.md R23, U5, log 9). -/
def Obligations.StepRunsBothCommandsInOrder : Prop :=
  ∀ (s : State) (e : StepInput) (rest : List StepInput) (wp : FrameWord) (wf : CmdWord),
    s.inputs = e :: rest → e.rst = false → e.p = some wp → e.f = some wf →
    (∀ put op, decode (.p wp) = .ok put → decode (.f wf) = .ok op →
      step s =
        if e.pFirst then andThen (exec put (s.latch e rest)) (exec op)
        else andThen (exec op (s.latch e rest)) (exec put))
    ∧ (∀ put, decode (.p wp) = .ok put → reservedOnF (cmdOp wf) = true →
        step s = mapNext (fun t => { t with resp := some { status := .illegal, data := 0, frame := 0 } }) (exec put (s.latch e rest)))
    ∧ (9 ≤ (wp.extractLsb' 34 4).toNat →
        (e.pFirst = true ∨ reservedOnF (cmdOp wf) = true → step s = .refused (.notAFrame (wp.extractLsb' 34 4)))
        ∧ (e.pFirst = false → ∀ op, decode (.f wf) = .ok op →
            step s = andThen (exec op (s.latch e rest)) (fun _ => .refused (.notAFrame (wp.extractLsb' 34 4)))))

/-- 30_encoding.md R70: with no valid command the registers do not change, whatever clock and pin do; also past the last input. -/
def Obligations.IdleStepKeepsRegisters : Prop :=
  ∀ s : State,
    (s.inputs = [] → step s = .next { s with resp := none })
    ∧ ∀ (e : StepInput) (rest : List StepInput), s.inputs = e :: rest → e.rst = false → e.p = none → e.f = none →
        ∃ t, step s = .next t ∧ t.ring = s.ring ∧ t.led = s.led ∧ t.sw = s.sw ∧ t.capacity = s.capacity
          ∧ t.inputs = rest ∧ t.pinSw = e.pinSw ∧ t.resp = none ∧ t.draws = s.draws

/-- 70_reset_and_hazards.md R230: while reset is asserted no command is accepted, and after it nothing of the registers survives. The
clock, the pin, the coming inputs and the counter of draws are no registers; that they go on is the model's choice (log 11). -/
def Obligations.ResetInputRestoresResetState : Prop :=
  ∀ (s : State) (e : StepInput) (rest : List StepInput), s.inputs = e :: rest → e.rst = true →
    ∃ t, step s = .next t ∧ t.ring = (State.resetWith s.capacity).ring ∧ t.led = (State.resetWith s.capacity).led
      ∧ t.sw = (State.resetWith s.capacity).sw ∧ t.capacity = s.capacity
      ∧ t.inputs = rest ∧ t.pinSw = e.pinSw ∧ t.resp = none ∧ t.draws = s.draws

/-- 60_exceptions.md R207: the clock input never decreases, over any step. -/
def Obligations.ClockNeverGoesBack : Prop :=
  ∀ s t : State, step s = .next t → s.tUs.toNat ≤ t.tUs.toNat

/-- 60_exceptions.md R208: `nowMillis()` is the microsecond count divided by 1000 and truncated to 32 bits; the rule's example. -/
def Obligations.MillisecondsFromMicroseconds : Prop :=
  (∀ s : State, s.nowMillis.toNat = (s.tUs.toNat / 1000) % 2 ^ 32)
  ∧ ∀ s : State, s.tUs = 4294967296999 → s.nowMillis = 0

/-! ## Reset and invariants -/

/-- 70_reset_and_hazards.md R231, for every CAPACITY: registers, no cell with a value, and the answers the rule draws from them. -/
def Obligations.RingAfterReset : Prop :=
  ∀ c : Index,
    let r := (State.resetWith c).ring
    r.head = 0 ∧ r.tail = 0 ∧ r.full = false ∧ r.size = 0 ∧ r.highWater = 0 ∧ r.puts = 0 ∧ r.gets = 0 ∧ r.overflows = 0
    ∧ (∀ a, Memory.lookup r.cells a = none)
    ∧ respOf (exec .ringEmpty (State.resetWith c)) = some { status := .ok, data := 1, frame := 0 }
    ∧ respOf (exec .ringAvailable (State.resetWith c)) = some { status := .ok, data := 0, frame := 0 }
    ∧ respOf (exec .ringFreeslots (State.resetWith c)) = some { status := .ok, data := c.setWidth 64, frame := 0 }
    ∧ respOf (exec .ringPeek (State.resetWith c)) = some { status := .none, data := 0, frame := 0 }

/-- 70_reset_and_hazards.md R232. -/
def Obligations.LedAfterReset : Prop :=
  ∀ c : Index,
    let s := State.resetWith c
    s.led.mode = .off ∧ s.led.level = false ∧ s.led.fresh = false ∧ s.led.oe = false ∧ s.led.phaseStart = 0
    ∧ s.led.pulseStart = 0 ∧ s.led.halfPeriod = 500 ∧ s.led.pulseDur = 100 ∧ s.led.cfgShort = 100 ∧ s.led.cfgLong = 500
    ∧ s.led.cfgHalf = 500 ∧ s.ledOut = false ∧ s.ledOe = false
    ∧ respOf (exec .ledGetstate s) = some { status := .ok, data := 0, frame := 0 }

/-- 70_reset_and_hazards.md R233. -/
def Obligations.SwAfterReset : Prop :=
  ∀ c : Index,
    let s := State.resetWith c
    s.sw.raw = true ∧ s.sw.stable = true ∧ s.sw.changed = false ∧ s.sw.lastChangeTime = 0 ∧ s.sw.currentStateStart = 0
    ∧ s.sw.lastStateDuration = 0 ∧ s.sw.mismatchStart = 0 ∧ s.sw.debounceMs = 20 ∧ s.sw.activeHigh = false ∧ s.sw.cfgd = false
    ∧ s.swPullUp = false ∧ s.swPullDown = false
    ∧ respOf (exec .swIspressed s) = some { status := .ok, data := 0, frame := 0 }
    ∧ respOf (exec .swGetstate s) = some { status := .ok, data := 1, frame := 0 }
    ∧ respOf (exec .swStatechanged s) = some { status := .ok, data := 0, frame := 0 }

/-- The reset state of every CAPACITY satisfies the invariant of the block (R21, R32). -/
def Obligations.ResetSatisfiesInvariant : Prop :=
  ∀ c : Index, BlockInv (State.resetWith c)

/-- 10_state.md R21 items 1 to 6 and R32, with the canonical form of the cell array: every step keeps them. -/
def Obligations.StepKeepsBlockInvariant : Prop :=
  ∀ s t : State, BlockInv s → step s = .next t → BlockInv t

/-- 60_exceptions.md R200: no step from a state with the invariant faults, and it refuses exactly a step without reset that presents a
port P word whose length field is 9 to 15, not a Frame (U5; refusing it is what the spec asks of a model, log 9). -/
def Obligations.StepNeverFaults : Prop :=
  ∀ s : State, BlockInv s →
    (∀ r, step s ≠ .fault r)
    ∧ ∀ r, step s = .refused r ↔
        ∃ e rest w, s.inputs = e :: rest ∧ e.rst = false ∧ e.p = some w
          ∧ 9 ≤ (w.extractLsb' 34 4).toNat ∧ r = .notAFrame (w.extractLsb' 34 4)

/-- 20_memory.md R61: every operation completes in one step, whatever the ring holds. -/
def Obligations.EveryOperationCompletes : Prop :=
  ∀ (s : State) (i : Instr), BlockInv s → wellFormed i = true →
    ∃ t, exec i s = .next t ∧ t.capacity = s.capacity ∧ t.tUs = s.tUs ∧ t.pinSw = s.pinSw ∧ t.inputs = s.inputs

/-! ## RING -/

/-- 40_ring.md R100: the word of a put on port P, and that a put into a ring with cells stores frame and stamp at `head` and advances as the rule says; every other cell and
everything else is unchanged. -/
def Obligations.PutStoresFrame : Prop :=
  ∀ (s : State) (f : Frame), f.len.toNat ≤ 8 →
    s.ring.head.toNat < s.capacity.toNat → s.ring.tail.toNat < s.capacity.toNat →
    decode (.p (packFrame f)) = .ok (.ringPut f) ∧ (∀ w, decode (.f w) ≠ .ok (.ringPut f))
    ∧ ∃ t, exec (.ringPut f) s = .next t
      ∧ Memory.lookup t.ring.cells s.ring.head.toNat = some { frame := f, stamp := s.tUs }
      ∧ (∀ a, a ≠ s.ring.head.toNat → Memory.lookup t.ring.cells a = Memory.lookup s.ring.cells a
          ∧ Memory.read t.ring.cells a = Memory.read s.ring.cells a)
      ∧ t.ring.head.toNat = (s.ring.head.toNat + 1) % s.capacity.toNat
      ∧ t.ring.tail.toNat = (if s.ring.full then (s.ring.tail.toNat + 1) % s.capacity.toNat else s.ring.tail.toNat)
      ∧ (t.ring.full = true ↔ t.ring.head = t.ring.tail)
      ∧ t.ring.size.toNat = sizeFormula s.capacity.toNat t.ring.full t.ring.head.toNat t.ring.tail.toNat
      ∧ t.ring.highWater.toNat = max s.ring.highWater.toNat t.ring.size.toNat
      ∧ t.ring.puts.toNat = (s.ring.puts.toNat + 1) % 2 ^ 32
      ∧ t.ring.overflows.toNat = (if s.ring.full then (s.ring.overflows.toNat + 1) % 2 ^ 32 else s.ring.overflows.toNat)
      ∧ t.ring.gets = s.ring.gets
      ∧ t = { s with ring := t.ring }

/-- 40_ring.md R116: what each RING operation does when CAPACITY is 0. The clock is not read by the put: its result is the same
whatever the clock. The value INSERTTIME answers is free. -/
def Obligations.RingWithoutCells : Prop :=
  ∀ s : State, s.capacity = 0 →
    (∀ f : Frame, f.len.toNat ≤ 8 → exec (.ringPut f) s =
      .next { s with ring := { s.ring with puts := s.ring.puts + 1, overflows := s.ring.overflows + 1 } })
    ∧ exec .ringPeek s = .next { s with resp := some { status := .none, data := 0, frame := 0 } }
    ∧ exec .ringGet s = .next { s with resp := some { status := .none, data := 0, frame := 0 } }
    ∧ (∃ x : Word64, exec .ringInserttime s =
        .next { s with draws := s.draws + 1, resp := some { status := .ok, data := x, frame := 0 } })
    ∧ exec .ringClear s = .next { s with ring := { s.ring with head := 0, tail := 0, full := false, size := 0 }
                                         resp := some { status := .ok, data := 0, frame := 0 } }
    ∧ exec .ringSize s = .next { s with resp := some { status := .ok, data := 0, frame := 0 } }
    ∧ exec .ringEmpty s = .next { s with resp := some { status := .ok, data := 1, frame := 0 } }
    ∧ exec .ringFull s = .next { s with resp := some { status := .ok, data := 0, frame := 0 } }
    ∧ exec .ringAvailable s = .next { s with resp := some { status := .ok, data := 0, frame := 0 } }
    ∧ exec .ringFreeslots s = .next { s with resp := some { status := .ok, data := 0, frame := 0 } }
    ∧ exec .ringHighwater s = .next { s with resp := some { status := .ok, data := 0, frame := 0 } }
    ∧ exec .ringPuts s = .next { s with resp := some { status := .ok, data := s.ring.puts.setWidth 64, frame := 0 } }
    ∧ exec .ringGets s = .next { s with resp := some { status := .ok, data := s.ring.gets.setWidth 64, frame := 0 } }
    ∧ exec .ringOverflows s =
        .next { s with resp := some { status := .ok, data := s.ring.overflows.setWidth 64, frame := 0 } }

/-- Where operations stop, and that they stop nowhere else: a put of something that is not a Frame is refused (U5, log 9), and an
access to a cell index that does not exist faults (the model's choice, log 8). -/
def Obligations.RingStopsOnlyOutsideTheSpec : Prop :=
  (∀ (s : State) (f : Frame), 9 ≤ f.len.toNat → exec (.ringPut f) s = .refused (.notAFrame f.len))
  ∧ (∀ (s : State) (f : Frame), f.len.toNat ≤ 8 → s.capacity ≠ 0 → s.capacity.toNat ≤ s.ring.head.toNat →
      exec (.ringPut f) s = .fault (.noSuchCell s.ring.head))
  ∧ (∀ s : State, s.capacity ≠ 0 → s.ring.size ≠ 0 → s.capacity.toNat ≤ s.ring.tail.toNat →
      exec .ringPeek s = .fault (.noSuchCell s.ring.tail) ∧ exec .ringGet s = .fault (.noSuchCell s.ring.tail)
      ∧ exec .ringInserttime s = .fault (.noSuchCell s.ring.tail))
  ∧ (∀ (s : State) (i : Instr) (r : Refusal), exec i s = .refused r →
      ∃ f, i = .ringPut f ∧ 9 ≤ f.len.toNat ∧ r = .notAFrame f.len)
  ∧ (∀ (s : State) (i : Instr) (r : Fault), exec i s = .fault r →
      s.capacity ≠ 0
      ∧ ((∃ f, i = .ringPut f ∧ f.len.toNat ≤ 8 ∧ s.capacity.toNat ≤ s.ring.head.toNat ∧ r = .noSuchCell s.ring.head)
        ∨ ((i = .ringPeek ∨ i = .ringGet ∨ i = .ringInserttime) ∧ s.ring.size ≠ 0
          ∧ s.capacity.toNat ≤ s.ring.tail.toNat ∧ r = .noSuchCell s.ring.tail)))

/-- 40_ring.md R101 (and R116 for a ring without cells): its word, the oldest frame or NONE, and no register changes. -/
def Obligations.PeekAnswersOldest : Prop :=
  ∀ (s : State) (arg : Word32), decode (.f (0x01#8 ++ arg)) = .ok .ringPeek
    ∧ (s.capacity = 0 ∨ s.ring.size = 0 →
        exec .ringPeek s = .next { s with resp := some { status := .none, data := 0, frame := 0 } })
    ∧ (s.ring.size ≠ 0 → s.ring.tail.toNat < s.capacity.toNat →
        exec .ringPeek s = .next { s with
          resp := some { status := .ok, data := 0, frame := packFrame (Memory.read s.ring.cells s.ring.tail.toNat).frame } })

/-- 40_ring.md R102 (and R116 for a ring without cells): its word; the oldest frame is returned and removed; on an empty ring NONE
and no register changes; the cells and `highWater` never change. -/
def Obligations.GetRemovesOldest : Prop :=
  ∀ (s : State) (arg : Word32), decode (.f (0x02#8 ++ arg)) = .ok .ringGet
    ∧ (s.capacity = 0 ∨ s.ring.size = 0 →
        exec .ringGet s = .next { s with resp := some { status := .none, data := 0, frame := 0 } })
    ∧ (s.ring.size ≠ 0 → s.ring.head.toNat < s.capacity.toNat → s.ring.tail.toNat < s.capacity.toNat →
        ∃ t, exec .ringGet s = .next t
          ∧ t.resp = some { status := .ok, data := 0, frame := packFrame (Memory.read s.ring.cells s.ring.tail.toNat).frame }
          ∧ t.ring.tail.toNat = (s.ring.tail.toNat + 1) % s.capacity.toNat
          ∧ t.ring.full = false
          ∧ t.ring.size.toNat = sizeFormula s.capacity.toNat false s.ring.head.toNat t.ring.tail.toNat
          ∧ t.ring.gets.toNat = (s.ring.gets.toNat + 1) % 2 ^ 32
          ∧ t.ring = { s.ring with tail := t.ring.tail, full := false, size := t.ring.size, gets := t.ring.gets }
          ∧ t = { s with ring := t.ring, resp := t.resp })

/-- 40_ring.md R103 (and R116 for a ring without cells): its word; the stamp of the oldest frame, or on an empty ring some value, and
no register changes. The model's counter of draws moves on when a draw is taken (log 5). -/
def Obligations.InserttimeAnswersStamp : Prop :=
  ∀ (s : State) (arg : Word32), decode (.f (0x03#8 ++ arg)) = .ok .ringInserttime
    ∧ (s.ring.size ≠ 0 → s.ring.tail.toNat < s.capacity.toNat →
      exec .ringInserttime s = .next { s with
        resp := some { status := .ok, data := (Memory.read s.ring.cells s.ring.tail.toNat).stamp, frame := 0 } })
    ∧ (s.capacity = 0 ∨ s.ring.size = 0 → ∃ x : Word64, exec .ringInserttime s =
        .next { s with draws := s.draws + 1, resp := some { status := .ok, data := x, frame := 0 } })

/-- 40_ring.md R104: its word; every unread frame is discarded; counters, `highWater` and cells are unchanged. -/
def Obligations.ClearDiscardsFrames : Prop :=
  ∀ (s : State) (arg : Word32), decode (.f (0x04#8 ++ arg)) = .ok .ringClear
    ∧ exec .ringClear s = .next { s with ring := { s.ring with head := 0, tail := 0, full := false, size := 0 }
                                         resp := some { status := .ok, data := 0, frame := 0 } }

/-- 40_ring.md R105 to R113, for a ring with cells (RingWithoutCells has the others): the word of each query, and that it answers its
number and changes nothing. -/
def Obligations.RingQueriesAnswer : Prop :=
  ∀ (s : State) (arg : Word32), s.capacity ≠ 0 → s.ring.size.toNat ≤ s.capacity.toNat →
    (decode (.f (0x05#8 ++ arg)) = .ok .ringSize ∧ decode (.f (0x06#8 ++ arg)) = .ok .ringEmpty
      ∧ decode (.f (0x07#8 ++ arg)) = .ok .ringFull ∧ decode (.f (0x08#8 ++ arg)) = .ok .ringAvailable
      ∧ decode (.f (0x09#8 ++ arg)) = .ok .ringFreeslots ∧ decode (.f (0x0A#8 ++ arg)) = .ok .ringHighwater
      ∧ decode (.f (0x0B#8 ++ arg)) = .ok .ringPuts ∧ decode (.f (0x0C#8 ++ arg)) = .ok .ringGets
      ∧ decode (.f (0x0D#8 ++ arg)) = .ok .ringOverflows)
    ∧ ∃ free : Index, free.toNat = s.capacity.toNat - s.ring.size.toNat
    ∧ exec .ringSize s = .next { s with resp := some { status := .ok, data := s.ring.size.setWidth 64, frame := 0 } }
    ∧ exec .ringEmpty s = .next { s with
        resp := some { status := .ok, data := if s.ring.size = 0 ∧ s.ring.full = false then 1 else 0, frame := 0 } }
    ∧ exec .ringFull s = .next { s with resp := some { status := .ok, data := if s.ring.full then 1 else 0, frame := 0 } }
    ∧ exec .ringAvailable s = .next { s with
        resp := some { status := .ok, data := if 0 < s.ring.size.toNat then 1 else 0, frame := 0 } }
    ∧ exec .ringFreeslots s = .next { s with resp := some { status := .ok, data := free.setWidth 64, frame := 0 } }
    ∧ exec .ringHighwater s = .next { s with resp := some { status := .ok, data := s.ring.highWater.setWidth 64, frame := 0 } }
    ∧ exec .ringPuts s = .next { s with resp := some { status := .ok, data := s.ring.puts.setWidth 64, frame := 0 } }
    ∧ exec .ringGets s = .next { s with resp := some { status := .ok, data := s.ring.gets.setWidth 64, frame := 0 } }
    ∧ exec .ringOverflows s = .next { s with resp := some { status := .ok, data := s.ring.overflows.setWidth 64, frame := 0 } }

/-- 40_ring.md R114, R115 and 10_state.md R21 item 7: the ring is a queue of at most CAPACITY frames. Every operation does to the
unread frames what it does to the queue, and PEEK and GET answer its oldest frame. -/
def Obligations.RingIsBoundedQueue : Prop :=
  ∀ (s t : State) (i : Instr), BlockInv s → exec i s = .next t →
    t.contents = queueAfter s.capacity.toNat s.tUs i s.contents
    ∧ t.contents.length = t.ring.size.toNat
    ∧ (i = .ringPeek ∨ i = .ringGet → t.resp = some (oldestFrame s.contents))
    ∧ (i = .ringInserttime → ∀ c q, s.contents = c :: q → t.resp = some { status := .ok, data := c.stamp, frame := 0 })

/-- 40_ring.md R115: a put is never refused and never loses the new frame: it is the newest afterwards. -/
def Obligations.PutWinsOnFull : Prop :=
  ∀ (s : State) (f : Frame), BlockInv s → s.capacity ≠ 0 → f.len.toNat ≤ 8 →
    ∃ t, exec (.ringPut f) s = .next t ∧ 1 ≤ t.ring.size.toNat
      ∧ t.contents.getLast? = some { frame := f, stamp := s.tUs }
      ∧ (s.ring.full = true → t.contents.dropLast = s.contents.tail)
      ∧ (s.ring.full = false → t.contents.dropLast = s.contents)

/-- 10_state.md R21 item 9 in the form of R242 (modulo 2^32): every operation but a clear of a non-empty ring keeps
`overflows == puts - gets - size`. -/
def Obligations.CountersAccountForFrames : Prop :=
  ∀ (s t : State) (i : Instr), BlockInv s → CountsAgree s.ring → exec i s = .next t →
    (i = .ringClear → s.ring.size = 0) → CountsAgree t.ring

/-- 10_state.md R21 item 8, before any wrap of `puts`: every operation keeps that the puts cover the gets, the overwritten and the
unread frames, and so `puts >= gets`. -/
def Obligations.PutsCoverGets : Prop :=
  ∀ (s t : State) (i : Instr), BlockInv s → PutsCover s.ring → exec i s = .next t →
    s.ring.puts.toNat + 1 < 2 ^ 32 → PutsCover t.ring ∧ t.ring.gets.toNat ≤ t.ring.puts.toNat

/-- 10_state.md R16 and R21 item 6: over any step without reset `highWater` never decreases. -/
def Obligations.HighWaterNeverDecreases : Prop :=
  ∀ (s t : State), step s = .next t → (∀ e rest, s.inputs = e :: rest → e.rst = false) →
    s.ring.highWater.toNat ≤ t.ring.highWater.toNat

/-- 70_reset_and_hazards.md R237: a put between PEEK and GET. On a ring that is not full the get returns the frame peeked and
INSERTTIME answers the stamp it answered; on a full ring the get returns the frame after the one peeked. -/
def Obligations.PutBetweenPeekAndGet : Prop :=
  ∀ (s t : State) (f : Frame), BlockInv s → s.ring.size ≠ 0 → exec (.ringPut f) s = .next t →
    (s.ring.full = false → respOf (exec .ringGet t) = respOf (exec .ringPeek s)
      ∧ respOf (exec .ringInserttime t) = respOf (exec .ringInserttime s))
    ∧ (s.ring.full = true →
        respOf (exec .ringGet t) = some (oldestFrame (s.contents.tail ++ [{ frame := f, stamp := s.tUs }])))

/-- 70_reset_and_hazards.md R238: over a step whose port F command, if any, is neither GET nor CLEAR, a ring with a frame keeps one,
a full ring stays full, and `gets` stays. -/
def Obligations.QueryResultsThatStayTrue : Prop :=
  ∀ (s t : State), BlockInv s → step s = .next t →
    (∀ e rest, s.inputs = e :: rest → e.rst = false ∧ e.foreground ≠ some .ringGet ∧ e.foreground ≠ some .ringClear) →
    (s.ring.size ≠ 0 → t.ring.size ≠ 0) ∧ (s.ring.full = true → t.ring.full = true) ∧ t.ring.gets = s.ring.gets

/-- 20_memory.md R64: along every step the stamps of the unread frames stay in order and none is later than the clock. -/
def Obligations.StampsStayOrdered : Prop :=
  ∀ s t : State, BlockInv s → StampsOrdered s → step s = .next t → StampsOrdered t

/-- 10_state.md R11 to R19: which operations write which register of RING. -/
def Obligations.RingRegistersHaveTheirWriters : Prop :=
  ∀ (s t : State) (i : Instr), exec i s = .next t →
    ((∀ f, i ≠ .ringPut f) → t.ring.cells = s.ring.cells ∧ t.ring.highWater = s.ring.highWater
      ∧ t.ring.puts = s.ring.puts ∧ t.ring.overflows = s.ring.overflows)
    ∧ ((∀ f, i ≠ .ringPut f) → i ≠ .ringClear → t.ring.head = s.ring.head)
    ∧ ((∀ f, i ≠ .ringPut f) → i ≠ .ringClear → i ≠ .ringGet →
        t.ring.tail = s.ring.tail ∧ t.ring.full = s.ring.full ∧ t.ring.size = s.ring.size)
    ∧ (i ≠ .ringGet → t.ring.gets = s.ring.gets)
    ∧ (∀ f, i = .ringPut f → s.ring.full = false → s.capacity ≠ 0 →
        t.ring.tail = s.ring.tail ∧ t.ring.overflows = s.ring.overflows)

/-! ## LED -/

/-- 41_indicator.md R130 to R133: the words of the immediate commands and their whole effect. -/
def Obligations.LedImmediateCommands : Prop :=
  ∀ (s : State) (arg : Word32),
    (decode (.f (0x10#8 ++ arg)) = .ok .ledSetpin ∧ exec .ledSetpin s = .next { s with
      led := { s.led with oe := true, level := false, mode := .off, fresh := false }
      resp := some { status := .ok, data := 0, frame := 0 } })
    ∧ (decode (.f (0x11#8 ++ arg)) = .ok .ledOn ∧ exec .ledOn s = .next { s with
      led := { s.led with mode := .on, level := true, fresh := false }
      resp := some { status := .ok, data := 0, frame := 0 } })
    ∧ (decode (.f (0x12#8 ++ arg)) = .ok .ledOff ∧ exec .ledOff s = .next { s with
      led := { s.led with mode := .off, level := false, fresh := false }
      resp := some { status := .ok, data := 0, frame := 0 } })
    ∧ (decode (.f (0x13#8 ++ arg)) = .ok .ledToggle ∧ exec .ledToggle s = .next { s with
      led := { s.led with level := !s.led.level, mode := if s.led.level then .off else .on, fresh := false }
      resp := some { status := .ok, data := 0, frame := 0 } })

/-- 41_indicator.md R134, R135: the words of the timed commands and their whole effect; the durations are latched. -/
def Obligations.LedTimedCommands : Prop :=
  ∀ (s : State) (arg : Word32),
    (decode (.f (0x14#8 ++ arg)) = .ok .ledBlink ∧ exec .ledBlink s = .next { s with
      led := { s.led with mode := .blink, fresh := true, halfPeriod := s.led.cfgHalf }
      resp := some { status := .ok, data := 0, frame := 0 } })
    ∧ decode (.f (0x15#8 ++ arg)) = .ok (.ledPulse (arg.getLsbD 0))
    ∧ ∀ short : Bool, exec (.ledPulse short) s = .next { s with
        led := { s.led with mode := .pulse, level := true, fresh := false, pulseStart := millisOf s.tUs
                            pulseDur := if short then s.led.cfgShort else s.led.cfgLong }
        resp := some { status := .ok, data := 0, frame := 0 } }

/-- 41_indicator.md R136: what LED.RUN does in every mode. -/
def Obligations.LedRunPerformsTimedTransitions : Prop :=
  ∀ (s : State) (arg : Word32), decode (.f (0x16#8 ++ arg)) = .ok .ledRun
    ∧ ∃ l : LedState, exec .ledRun s = .next { s with led := l, resp := some { status := .ok, data := 0, frame := 0 } }
      ∧ (s.led.mode = .off ∨ s.led.mode = .on → l = s.led)
      ∧ (s.led.mode = .blink → s.led.fresh = true →
          l = { s.led with level := true, phaseStart := millisOf s.tUs, fresh := false })
      ∧ (s.led.mode = .blink → s.led.fresh = false →
          l = if elapsedAtLeast s.led.halfPeriod s.led.phaseStart (millisOf s.tUs)
              then { s.led with level := !s.led.level, phaseStart := millisOf s.tUs } else s.led)
      ∧ (s.led.mode = .pulse →
          l = if elapsedAtLeast s.led.pulseDur s.led.pulseStart (millisOf s.tUs)
              then { s.led with level := false, mode := .off } else s.led)

/-- 41_indicator.md R137 to R140: the level is what GETSTATE answers, and each SET command writes its one register. -/
def Obligations.LedQueryAndConfiguration : Prop :=
  ∀ (s : State) (arg : Word32),
    (decode (.f (0x17#8 ++ arg)) = .ok .ledGetstate ∧ exec .ledGetstate s =
      .next { s with resp := some { status := .ok, data := if s.led.level then 1 else 0, frame := 0 } })
    ∧ (decode (.f (0x18#8 ++ arg)) = .ok (.ledSetshort arg) ∧ exec (.ledSetshort arg) s = .next { s with
      led := { s.led with cfgShort := arg }, resp := some { status := .ok, data := 0, frame := 0 } })
    ∧ (decode (.f (0x19#8 ++ arg)) = .ok (.ledSetlong arg) ∧ exec (.ledSetlong arg) s = .next { s with
      led := { s.led with cfgLong := arg }, resp := some { status := .ok, data := 0, frame := 0 } })
    ∧ (decode (.f (0x1A#8 ++ arg)) = .ok (.ledSethalf arg) ∧ exec (.ledSethalf arg) s = .next { s with
      led := { s.led with cfgHalf := arg }, resp := some { status := .ok, data := 0, frame := 0 } })

/-- 41_indicator.md R141: the next mode and level for every LED command in every mode. -/
def Obligations.LedModeTable : Prop :=
  ∀ (s t : State) (i : Instr), LedInv s.led → exec i s = .next t →
    (i = .ledSetpin ∨ i = .ledOff → t.led.mode = .off ∧ t.led.level = false)
    ∧ (i = .ledOn → t.led.mode = .on ∧ t.led.level = true)
    ∧ (i = .ledToggle →
        (s.led.mode = .off → t.led.mode = .on ∧ t.led.level = true)
        ∧ (s.led.mode = .on ∨ s.led.mode = .pulse → t.led.mode = .off ∧ t.led.level = false)
        ∧ (s.led.mode = .blink → s.led.level = false → t.led.mode = .on ∧ t.led.level = true)
        ∧ (s.led.mode = .blink → s.led.level = true → t.led.mode = .off ∧ t.led.level = false))
    ∧ (i = .ledBlink → t.led.mode = .blink ∧ t.led.fresh = true ∧ t.led.level = s.led.level)
    ∧ (∀ short, i = .ledPulse short → t.led.mode = .pulse ∧ t.led.level = true ∧ t.led.pulseStart = millisOf s.tUs)
    ∧ (i = .ledRun →
        (s.led.mode = .off → t.led.mode = .off ∧ t.led.level = false)
        ∧ (s.led.mode = .on → t.led.mode = .on ∧ t.led.level = true)
        ∧ (s.led.mode = .blink → t.led.mode = .blink ∧ t.led.level =
            if s.led.fresh then true
            else if elapsedAtLeast s.led.halfPeriod s.led.phaseStart (millisOf s.tUs) then !s.led.level else s.led.level)
        ∧ (s.led.mode = .pulse →
            if elapsedAtLeast s.led.pulseDur s.led.pulseStart (millisOf s.tUs)
            then t.led.mode = .off ∧ t.led.level = false else t.led.mode = .pulse ∧ t.led.level = true))
    ∧ (i = .ledGetstate ∨ (∃ ms, i = .ledSetshort ms ∨ i = .ledSetlong ms ∨ i = .ledSethalf ms) →
        t.led.mode = s.led.mode ∧ t.led.level = s.led.level)

/-- 41_indicator.md R142: after a pulse of latched duration `d` issued at `p`, followed by no LED command but RUN, GETSTATE and the SET
commands, the level is 1 as long as no LED.RUN comes with at least `d` ms elapsed, and 0 from the first such run on. -/
def Obligations.PulseTiming : Prop :=
  ∀ (s s' : State) (short : Bool) (es later : List StepInput),
    exec (.ledPulse short) s' = .next s → s.inputs = es ++ later →
    allSamples (fun x now => ledQuiet x && !(isLedRun x && elapsedAtLeast s.led.pulseDur (millisOf s'.tUs) now)) s.tUs es →
    s.led.pulseDur = (if short then s'.led.cfgShort else s'.led.cfgLong)
    ∧ (∀ k ≤ es.length, ∀ t, runSteps k s = .next t → t.led.level = true)
    ∧ ∀ (e : StepInput) (es' rest : List StepInput), later = e :: (es' ++ rest) → isLedRun e = true →
        elapsedAtLeast s.led.pulseDur (millisOf s'.tUs) (millisOf (clockSample (clockAfter s.tUs es) e.tUs)) = true →
        allSamples (fun x _ => ledQuiet x) (clockSample (clockAfter s.tUs es) e.tUs) es' →
        ∀ k ≤ es'.length, ∀ t, runSteps (es.length + 1 + k) s = .next t → t.led.level = false

/-- 41_indicator.md R143: the first run after a BLINK lights the LED and starts a phase; a phase lasts over every step until a
LED.RUN at least `halfPeriod` ms after its start, which inverts the level and starts the next phase. -/
def Obligations.BlinkTiming : Prop :=
  ∀ (s t : State) (es rest : List StepInput) (e : StepInput), s.led.mode = .blink → s.inputs = es ++ e :: rest →
    isLedRun e = true → runSteps (es.length + 1) s = .next t →
    (s.led.fresh = true → allSamples (fun x _ => ledQuiet x && !isLedRun x) s.tUs es →
      t.led.mode = .blink ∧ t.led.level = true ∧ t.led.fresh = false ∧ t.led.halfPeriod = s.led.halfPeriod
      ∧ t.led.phaseStart = millisOf (clockSample (clockAfter s.tUs es) e.tUs))
    ∧ (s.led.fresh = false →
      allSamples (fun x now => ledQuiet x && !(isLedRun x && elapsedAtLeast s.led.halfPeriod s.led.phaseStart now)) s.tUs es →
      elapsedAtLeast s.led.halfPeriod s.led.phaseStart (millisOf (clockSample (clockAfter s.tUs es) e.tUs)) = true →
      (∀ k ≤ es.length, ∀ u, runSteps k s = .next u → u.led.level = s.led.level ∧ u.led.phaseStart = s.led.phaseStart)
      ∧ t.led.mode = .blink ∧ t.led.level = !s.led.level ∧ t.led.fresh = false ∧ t.led.halfPeriod = s.led.halfPeriod
      ∧ t.led.phaseStart = millisOf (clockSample (clockAfter s.tUs es) e.tUs))

/-- 10_state.md R30, R31: which operations write which register of LED. -/
def Obligations.LedRegistersHaveTheirWriters : Prop :=
  ∀ (s t : State) (i : Instr), exec i s = .next t →
    (i ≠ .ledSetpin → t.led.oe = s.led.oe)
    ∧ (i ≠ .ledRun → t.led.phaseStart = s.led.phaseStart)
    ∧ (i ≠ .ledBlink → t.led.halfPeriod = s.led.halfPeriod)
    ∧ ((∀ b, i ≠ .ledPulse b) → t.led.pulseStart = s.led.pulseStart ∧ t.led.pulseDur = s.led.pulseDur)
    ∧ ((∀ ms, i ≠ .ledSetshort ms) → t.led.cfgShort = s.led.cfgShort)
    ∧ ((∀ ms, i ≠ .ledSetlong ms) → t.led.cfgLong = s.led.cfgLong)
    ∧ ((∀ ms, i ≠ .ledSethalf ms) → t.led.cfgHalf = s.led.cfgHalf)
    ∧ (i = .ledBlink → t.led.level = s.led.level)
    ∧ (i = .ledRun → s.led.mode ≠ .pulse → t.led.mode = s.led.mode)
    ∧ (i = .ledRun → s.led.mode ≠ .blink → t.led.fresh = s.led.fresh ∧ t.led.phaseStart = s.led.phaseStart)
    ∧ (i = .ledGetstate ∨ (∃ ms, i = .ledSetshort ms ∨ i = .ledSetlong ms ∨ i = .ledSethalf ms) →
        t.led.mode = s.led.mode ∧ t.led.level = s.led.level ∧ t.led.fresh = s.led.fresh)
    ∧ (unitOf i ≠ 1 → t.led = s.led)

/-- 10_state.md R33, R44: the output pins are functions of the registers; SETPIN enables the LED pad, low, and the pull that goes with
the polarity. -/
def Obligations.OutputsFollowRegisters : Prop :=
  (∀ s : State, s.ledOut = s.led.level ∧ s.ledOe = s.led.oe
    ∧ (s.swPullUp = true ↔ s.sw.cfgd = true ∧ s.sw.activeHigh = false)
    ∧ (s.swPullDown = true ↔ s.sw.cfgd = true ∧ s.sw.activeHigh = true))
  ∧ (∀ s t : State, exec .ledSetpin s = .next t → t.ledOut = false ∧ t.ledOe = true)
  ∧ (∀ (s t : State) (b : Bool), exec (.swSetpin b) s = .next t → t.swPullUp = !b ∧ t.swPullDown = b)

/-! ## SW -/

/-- 42_input.md R160, R168, R169: the words and the whole effect of the commands that write SW registers at once, and the pull
resistor that goes with the polarity. -/
def Obligations.SwCommandsWriteTheirRegisters : Prop :=
  ∀ (s : State) (arg : Word32),
    (decode (.f (0x20#8 ++ arg)) = .ok (.swSetpin (arg.getLsbD 0)))
    ∧ (∀ pol : Bool, ∃ t, exec (.swSetpin pol) s = .next t
      ∧ t = { s with sw := { s.sw with activeHigh := pol, cfgd := true }, resp := some { status := .ok, data := 0, frame := 0 } }
      ∧ t.swPullUp = !pol ∧ t.swPullDown = pol)
    ∧ (decode (.f (0x28#8 ++ arg)) = .ok .swResetduration ∧ exec .swResetduration s = .next { s with
      sw := { s.sw with currentStateStart := millisOf s.tUs }, resp := some { status := .ok, data := 0, frame := 0 } })
    ∧ (decode (.f (0x29#8 ++ arg)) = .ok (.swSetdebounce arg) ∧ exec (.swSetdebounce arg) s = .next { s with
      sw := { s.sw with debounceMs := arg }, resp := some { status := .ok, data := 0, frame := 0 } })

/-- 42_input.md R161: what SW.RUN does with an equal sample, with a differing sample that is not yet debounced, and at a flip. -/
def Obligations.SwRunDebounces : Prop :=
  ∀ (s : State) (arg : Word32), decode (.f (0x21#8 ++ arg)) = .ok .swRun
    ∧ ∃ w : SwState, exec .swRun s = .next { s with sw := w, resp := some { status := .ok, data := 0, frame := 0 } }
      ∧ (xor s.pinSw s.sw.activeHigh = s.sw.stable → w = { s.sw with raw := s.sw.stable })
      ∧ (xor s.pinSw s.sw.activeHigh ≠ s.sw.stable →
          let now := millisOf s.tUs
          let start := if s.sw.raw = s.sw.stable then now else s.sw.mismatchStart
          (elapsedAtLeast s.sw.debounceMs start now = false →
            w = { s.sw with raw := !s.sw.stable, mismatchStart := start })
          ∧ (elapsedAtLeast s.sw.debounceMs start now = true →
            w = { s.sw with raw := !s.sw.stable, mismatchStart := start, stable := !s.sw.stable
                            lastStateDuration := now - s.sw.currentStateStart, currentStateStart := now
                            lastChangeTime := now, changed := true }))

/-- 42_input.md R162, R163, R165 to R167: the words of the SW queries, their answers, and that they change nothing. -/
def Obligations.SwQueriesAnswer : Prop :=
  ∀ (s : State) (arg : Word32),
    (decode (.f (0x22#8 ++ arg)) = .ok .swGetstate ∧ exec .swGetstate s =
      .next { s with resp := some { status := .ok, data := if s.sw.stable then 1 else 0, frame := 0 } })
    ∧ (decode (.f (0x23#8 ++ arg)) = .ok .swIspressed ∧ exec .swIspressed s =
      .next { s with resp := some { status := .ok, data := if s.sw.stable then 0 else 1, frame := 0 } })
    ∧ (decode (.f (0x25#8 ++ arg)) = .ok .swCurduration ∧ exec .swCurduration s = .next { s with
        resp := some { status := .ok, data := (millisOf s.tUs - s.sw.currentStateStart).setWidth 64, frame := 0 } })
    ∧ (decode (.f (0x26#8 ++ arg)) = .ok .swLastduration ∧ exec .swLastduration s = .next { s with
        resp := some { status := .ok, data := s.sw.lastStateDuration.setWidth 64, frame := 0 } })
    ∧ (decode (.f (0x27#8 ++ arg)) = .ok .swLastchangetime ∧ exec .swLastchangetime s = .next { s with
        resp := some { status := .ok, data := s.sw.lastChangeTime.setWidth 64, frame := 0 } })

/-- 42_input.md R164: STATECHANGED answers the flag and clears it, so that asking again at once answers 0. -/
def Obligations.StatechangedReadsAndClears : Prop :=
  ∀ (s : State) (arg : Word32), decode (.f (0x24#8 ++ arg)) = .ok .swStatechanged
    ∧ ∃ t, exec .swStatechanged s = .next t
      ∧ t = { s with sw := { s.sw with changed := false }
                     resp := some { status := .ok, data := if s.sw.changed then 1 else 0, frame := 0 } }
      ∧ respOf (exec .swStatechanged t) = some { status := .ok, data := 0, frame := 0 }

/-- 42_input.md R170, from a state whose last sample equals the debounced state, with a debounce time that is not 0: let `r0` be the
time of a first differing run and let every run after it differ too. A later run flips the debounced state exactly if it comes at
least `debounceMs` after `r0`. A run that samples the debounced level flips nothing, and with a debounce time of 0 the first
differing run flips. -/
def Obligations.DebounceGuarantee : Prop :=
  ∀ (s t : State) (e : StepInput) (rest : List StepInput), s.sw.raw = s.sw.stable →
    (s.inputs = e :: rest → isSwRun e = true → step s = .next t →
      (differingRun s.sw e = false → t.sw.stable = s.sw.stable ∧ t.sw.raw = s.sw.stable)
      ∧ (differingRun s.sw e = true → (t.sw.stable ≠ s.sw.stable ↔ s.sw.debounceMs = 0)))
    ∧ ∀ (e0 : StepInput) (es : List StepInput), s.inputs = e0 :: (es ++ e :: rest) →
        s.sw.debounceMs ≠ 0 → differingRun s.sw e0 = true → differingRun s.sw e = true →
        allSamples (fun x now => swQuiet x || (differingRun s.sw x
          && !elapsedAtLeast s.sw.debounceMs (millisOf (clockSample s.tUs e0.tUs)) now)) (clockSample s.tUs e0.tUs) es →
        runSteps (es.length + 2) s = .next t →
        (t.sw.stable ≠ s.sw.stable ↔
          elapsedAtLeast s.sw.debounceMs (millisOf (clockSample s.tUs e0.tUs))
            (millisOf (clockSample (clockAfter (clockSample s.tUs e0.tUs) es) e.tUs)) = true)

/-- 42_input.md R164, R171 and 10_state.md R45: over any step, the flag `changed` is set only by a flip and every flip sets it; it is
cleared only by SW.STATECHANGED or reset. -/
def Obligations.ChangedFlagReportsFlips : Prop :=
  ∀ s t : State, step s = .next t →
    (s.sw.changed = false → t.sw.changed = true → t.sw.stable ≠ s.sw.stable)
    ∧ ((∀ e rest, s.inputs = e :: rest → e.rst = false) → t.sw.stable ≠ s.sw.stable → t.sw.changed = true)
    ∧ (s.sw.changed = true → t.sw.changed = false →
        ∃ e rest, s.inputs = e :: rest ∧ (e.rst = true ∨ e.foreground = some .swStatechanged))

/-- 42_input.md R172 and 10_state.md R45: at every flip the reported duration is the time since `currentStateStart`, and both start
times become the time of the flip; `lastChangeTime` changes at a flip only. -/
def Obligations.FlipRecordsDurations : Prop :=
  ∀ s t : State, step s = .next t → (∀ e rest, s.inputs = e :: rest → e.rst = false) →
    (t.sw.stable ≠ s.sw.stable →
      t.sw.lastStateDuration = millisOf t.tUs - s.sw.currentStateStart ∧ t.sw.currentStateStart = millisOf t.tUs
      ∧ t.sw.lastChangeTime = t.sw.currentStateStart ∧ t.sw.raw = t.sw.stable)
    ∧ (t.sw.stable = s.sw.stable →
      t.sw.lastStateDuration = s.sw.lastStateDuration ∧ t.sw.lastChangeTime = s.sw.lastChangeTime)

/-- 10_state.md R40, R41, R43: which operations write which register of SW. -/
def Obligations.SwRegistersHaveTheirWriters : Prop :=
  ∀ (s t : State) (i : Instr), exec i s = .next t →
    (i ≠ .swRun → t.sw.raw = s.sw.raw ∧ t.sw.stable = s.sw.stable ∧ t.sw.lastChangeTime = s.sw.lastChangeTime
      ∧ t.sw.lastStateDuration = s.sw.lastStateDuration ∧ t.sw.mismatchStart = s.sw.mismatchStart)
    ∧ (i ≠ .swRun → i ≠ .swStatechanged → t.sw.changed = s.sw.changed)
    ∧ (i ≠ .swRun → i ≠ .swResetduration → t.sw.currentStateStart = s.sw.currentStateStart)
    ∧ ((∀ b, i ≠ .swSetpin b) → t.sw.activeHigh = s.sw.activeHigh ∧ t.sw.cfgd = s.sw.cfgd)
    ∧ ((∀ ms, i ≠ .swSetdebounce ms) → t.sw.debounceMs = s.sw.debounceMs)
    ∧ (unitOf i ≠ 2 → t.sw = s.sw)

/-! ## Independence -/

/-- 20_memory.md R66: a put changes no LED or SW state, no LED or SW operation changes RING state, and a put commutes with each of
them at one clock value. -/
def Obligations.PutCommutesWithLedAndSw : Prop :=
  ∀ (s : State) (f : Frame) (i : Instr), unitOf i ≠ 0 →
    andThen (exec (.ringPut f) s) (exec i) = andThen (exec i s) (exec (.ringPut f))
    ∧ (∀ t, exec i s = .next t → t.ring = s.ring)
    ∧ (∀ t, exec (.ringPut f) s = .next t → t.led = s.led ∧ t.sw = s.sw ∧ t.resp = s.resp)

/-- 60_exceptions.md R209: an operation outside the rule's list does not depend on the clock, and no operation writes it. -/
def Obligations.OnlyListedOperationsReadClock : Prop :=
  (∀ (i : Instr) (s : State) (now : Word64), readsClock i = false →
    exec i { s with tUs := now } = mapNext (fun t => { t with tUs := now }) (exec i s))
  ∧ ∀ (i : Instr) (s t : State), exec i s = .next t → t.tUs = s.tUs

/-- 60_exceptions.md R212: no operation but SW.RUN depends on the switch pin. -/
def Obligations.OnlySwRunReadsPin : Prop :=
  ∀ (i : Instr) (s : State) (level : Bool), i ≠ .swRun →
    exec i { s with pinSw := level } = mapNext (fun t => { t with pinSw := level }) (exec i s)
end

