-- ==== Sys2Proof/Laws/Decode.lean ====
section
/-! SUPPORT. The two fields of a port F word made of an opcode and an operand (30_encoding.md R71). -/

namespace Sys2Proof

/-- The opcode field of `{op, arg}`. -/
@[simp] theorem cmdOp_append (op : BitVec 8) (arg : Word32) : cmdOp (op ++ arg) = op := by
  have h : ∀ w : BitVec (8 + 32), w = op ++ arg → w.extractLsb' 32 8 = op := by
    rintro _ rfl
    refine BitVec.eq_of_getLsbD_eq fun i hi => ?_
    rw [BitVec.getLsbD_extractLsb', BitVec.getLsbD_append]
    simp [hi]
  exact h _ rfl

/-- The operand field of `{op, arg}`. -/
@[simp] theorem cmdArg_append (op : BitVec 8) (arg : Word32) : cmdArg (op ++ arg) = arg := by
  have h : ∀ w : BitVec (8 + 32), w = op ++ arg → w.extractLsb' 0 32 = arg := by
    rintro _ rfl
    refine BitVec.eq_of_getLsbD_eq fun i hi => ?_
    rw [BitVec.getLsbD_extractLsb', BitVec.getLsbD_append]
    simp [hi]
  exact h _ rfl

/-- What a word `{op, arg}` decodes to. -/
@[simp] theorem decode_append (op : BitVec 8) (arg : Word32) : decode (.f (op ++ arg)) = decodeFields op arg := by
  simp [decode, decodeF]

/-- The encoder's word is `{op, arg}`. -/
theorem cmdWord_eq (op : BitVec 8) (arg : Word32) : cmdWord op arg = op ++ arg := rfl

/-- A port F word is made of its two fields. -/
theorem cmdOp_append_cmdArg (w : CmdWord) : cmdOp w ++ cmdArg w = w := by
  have h : ∀ v : BitVec (8 + 32), v.extractLsb' 32 8 ++ v.extractLsb' 0 32 = v := by
    intro v
    refine BitVec.eq_of_getLsbD_eq fun i hi => ?_
    rw [BitVec.getLsbD_append, BitVec.getLsbD_extractLsb', BitVec.getLsbD_extractLsb']
    by_cases h32 : i < 32
    · simp [h32]
    · simp only [h32, if_false, show i - 32 < 8 by omega, show 32 + (i - 32) = i by omega, decide_true, Bool.true_and]
  exact h w

end Sys2Proof
end

