-- ==== Sys2Proof/Laws/Memory.lean ====
section
/-! SUPPORT. The laws of the cell array: read after write, the frame of a write, and that every operation keeps the canonical
form. -/

namespace Sys2Proof.Machine

/-- The lookup after a write, at every index. -/
theorem Memory.lookup_write (m : Memory) (i : Nat) (c : TimedFrame) (a : Nat) :
    Memory.lookup (Memory.write m i c) a = if a = i then some c else Memory.lookup m a := by
  induction m with
  | nil => simp [Memory.write, Memory.lookup, eq_comm]
  | cons p rest ih =>
    obtain ⟨j, d⟩ := p
    by_cases hlt : i < j
    · simp [Memory.write, hlt, Memory.lookup, eq_comm]
    · by_cases hij : i = j
      · subst hij
        by_cases ha : a = i
        · simp [Memory.write, Memory.lookup, ha]
        · simp [Memory.write, Memory.lookup, ha, Ne.symm ha]
      · simp only [Memory.write, hlt, hij, if_false, Memory.lookup, ih]
        by_cases ha : a = i
        · subst ha; simp [Ne.symm hij]
        · simp [ha]

/-- Reading the cell just written gives what was written. -/
theorem Memory.read_write_same (m : Memory) (i : Nat) (c : TimedFrame) :
    Memory.read (Memory.write m i c) i = c := by
  simp [Memory.read, Memory.lookup_write m i c i]

/-- A write leaves every other cell as it was. -/
theorem Memory.read_write_other (m : Memory) (i : Nat) (c : TimedFrame) (a : Nat) (ha : a ≠ i) :
    Memory.read (Memory.write m i c) a = Memory.read m a := by
  simp [Memory.read, Memory.lookup_write m i c a, ha]

/-- An index below everything listed stays below after a write above it. -/
theorem Memory.above_write (lo : Nat) (m : Memory) (i : Nat) (c : TimedFrame) (hlo : lo < i) (h : Memory.above lo m = true) :
    Memory.above lo (Memory.write m i c) = true := by
  induction m generalizing lo with
  | nil => simp [Memory.write, Memory.above, hlo]
  | cons p rest ih =>
    obtain ⟨j, d⟩ := p
    simp only [Memory.above, Bool.and_eq_true, decide_eq_true_eq] at h
    by_cases hlt : i < j
    · simp [Memory.write, hlt, Memory.above, hlo, h.2]
    · by_cases hij : i = j
      · subst hij; simp [Memory.write, Memory.above, hlo, h.2]
      · simp [Memory.write, hlt, hij, Memory.above, h.1, ih j (by omega) h.2]

/-- A write keeps the canonical form. -/
theorem Memory.wf_write (m : Memory) (i : Nat) (c : TimedFrame) (h : Memory.wf m = true) :
    Memory.wf (Memory.write m i c) = true := by
  cases m with
  | nil => rfl
  | cons p rest =>
    obtain ⟨j, d⟩ := p
    by_cases hlt : i < j
    · simpa [Memory.write, hlt, Memory.wf, Memory.above] using h
    · by_cases hij : i = j
      · subst hij; simpa [Memory.write, Memory.wf] using h
      · simp only [Memory.write, hlt, hij, if_false, Memory.wf]
        exact Memory.above_write j rest i c (by omega) (by simpa [Memory.wf] using h)

/-- What a write lists: what was listed, or the pair written. -/
theorem Memory.mem_write (m : Memory) (i : Nat) (c : TimedFrame) (p : Nat × TimedFrame) (h : p ∈ Memory.write m i c) :
    p = (i, c) ∨ p ∈ m := by
  induction m with
  | nil => simpa [Memory.write] using h
  | cons q rest ih =>
    obtain ⟨j, d⟩ := q
    by_cases hlt : i < j
    · simpa [Memory.write, hlt] using h
    · by_cases hij : i = j
      · subst hij
        simp only [Memory.write, hlt, if_false, if_true, List.mem_cons] at h
        rcases h with h | h
        · exact .inl h
        · exact .inr (List.mem_cons_of_mem _ h)
      · simp only [Memory.write, hlt, hij, if_false, List.mem_cons] at h
        rcases h with h | h
        · exact .inr (by simp [h])
        · rcases ih h with h | h
          · exact .inl h
          · exact .inr (List.mem_cons_of_mem _ h)

/-- The memory of the reset state is in canonical form. -/
theorem State.reset_wf : Memory.wf State.reset.ring.cells = true := rfl

/-- An index at or below a bound that everything listed is above is not listed. -/
theorem Memory.above_lookup (lo : Nat) (m : Memory) (a : Nat) (h : Memory.above lo m = true) (ha : a ≤ lo) :
    Memory.lookup m a = none := by
  induction m generalizing lo with
  | nil => rfl
  | cons p rest ih =>
    obtain ⟨j, d⟩ := p
    simp only [Memory.above, Bool.and_eq_true, decide_eq_true_eq] at h
    simp [Memory.lookup, show j ≠ a by omega, ih j h.2 (by omega)]

end Sys2Proof.Machine
end

