-- ==== Sys2Proof/Laws/State.lean ====
section
/-! SUPPORT. One lemma per field per update of State, so that no later proof unfolds an update. -/

namespace Sys2Proof.Machine

section

variable (s : State) (r : RingState)

@[simp] theorem State.setRing_capacity : (s.setRing r).capacity = s.capacity := rfl
@[simp] theorem State.setRing_ring : (s.setRing r).ring = r := rfl
@[simp] theorem State.setRing_led : (s.setRing r).led = s.led := rfl
@[simp] theorem State.setRing_sw : (s.setRing r).sw = s.sw := rfl
@[simp] theorem State.setRing_tUs : (s.setRing r).tUs = s.tUs := rfl
@[simp] theorem State.setRing_pinSw : (s.setRing r).pinSw = s.pinSw := rfl
@[simp] theorem State.setRing_inputs : (s.setRing r).inputs = s.inputs := rfl
@[simp] theorem State.setRing_resp : (s.setRing r).resp = s.resp := rfl
@[simp] theorem State.setRing_draws : (s.setRing r).draws = s.draws := rfl

end

section

variable (s : State) (l : LedState)

@[simp] theorem State.setLed_capacity : (s.setLed l).capacity = s.capacity := rfl
@[simp] theorem State.setLed_ring : (s.setLed l).ring = s.ring := rfl
@[simp] theorem State.setLed_led : (s.setLed l).led = l := rfl
@[simp] theorem State.setLed_sw : (s.setLed l).sw = s.sw := rfl
@[simp] theorem State.setLed_tUs : (s.setLed l).tUs = s.tUs := rfl
@[simp] theorem State.setLed_pinSw : (s.setLed l).pinSw = s.pinSw := rfl
@[simp] theorem State.setLed_inputs : (s.setLed l).inputs = s.inputs := rfl
@[simp] theorem State.setLed_resp : (s.setLed l).resp = s.resp := rfl
@[simp] theorem State.setLed_draws : (s.setLed l).draws = s.draws := rfl

end

section

variable (s : State) (w : SwState)

@[simp] theorem State.setSw_capacity : (s.setSw w).capacity = s.capacity := rfl
@[simp] theorem State.setSw_ring : (s.setSw w).ring = s.ring := rfl
@[simp] theorem State.setSw_led : (s.setSw w).led = s.led := rfl
@[simp] theorem State.setSw_sw : (s.setSw w).sw = w := rfl
@[simp] theorem State.setSw_tUs : (s.setSw w).tUs = s.tUs := rfl
@[simp] theorem State.setSw_pinSw : (s.setSw w).pinSw = s.pinSw := rfl
@[simp] theorem State.setSw_inputs : (s.setSw w).inputs = s.inputs := rfl
@[simp] theorem State.setSw_resp : (s.setSw w).resp = s.resp := rfl
@[simp] theorem State.setSw_draws : (s.setSw w).draws = s.draws := rfl

end

section

variable (s : State) (x : Status) (d : Word64) (f : FrameWord)

@[simp] theorem State.respond_capacity : (s.respond x d f).capacity = s.capacity := rfl
@[simp] theorem State.respond_ring : (s.respond x d f).ring = s.ring := rfl
@[simp] theorem State.respond_led : (s.respond x d f).led = s.led := rfl
@[simp] theorem State.respond_sw : (s.respond x d f).sw = s.sw := rfl
@[simp] theorem State.respond_tUs : (s.respond x d f).tUs = s.tUs := rfl
@[simp] theorem State.respond_pinSw : (s.respond x d f).pinSw = s.pinSw := rfl
@[simp] theorem State.respond_inputs : (s.respond x d f).inputs = s.inputs := rfl
@[simp] theorem State.respond_resp : (s.respond x d f).resp = some { status := x, data := d, frame := f } := rfl
@[simp] theorem State.respond_draws : (s.respond x d f).draws = s.draws := rfl

end

section

variable (s : State)

@[simp] theorem State.respondOk_capacity : s.respondOk.capacity = s.capacity := rfl
@[simp] theorem State.respondOk_ring : s.respondOk.ring = s.ring := rfl
@[simp] theorem State.respondOk_led : s.respondOk.led = s.led := rfl
@[simp] theorem State.respondOk_sw : s.respondOk.sw = s.sw := rfl
@[simp] theorem State.respondOk_tUs : s.respondOk.tUs = s.tUs := rfl
@[simp] theorem State.respondOk_pinSw : s.respondOk.pinSw = s.pinSw := rfl
@[simp] theorem State.respondOk_inputs : s.respondOk.inputs = s.inputs := rfl
@[simp] theorem State.respondOk_resp : s.respondOk.resp = some { status := .ok, data := 0, frame := 0 } := rfl
@[simp] theorem State.respondOk_draws : s.respondOk.draws = s.draws := rfl

end

section

variable (s : State) (d : Word64)

@[simp] theorem State.respondData_capacity : (s.respondData d).capacity = s.capacity := rfl
@[simp] theorem State.respondData_ring : (s.respondData d).ring = s.ring := rfl
@[simp] theorem State.respondData_led : (s.respondData d).led = s.led := rfl
@[simp] theorem State.respondData_sw : (s.respondData d).sw = s.sw := rfl
@[simp] theorem State.respondData_tUs : (s.respondData d).tUs = s.tUs := rfl
@[simp] theorem State.respondData_pinSw : (s.respondData d).pinSw = s.pinSw := rfl
@[simp] theorem State.respondData_inputs : (s.respondData d).inputs = s.inputs := rfl
@[simp] theorem State.respondData_resp : (s.respondData d).resp = some { status := .ok, data := d, frame := 0 } := rfl
@[simp] theorem State.respondData_draws : (s.respondData d).draws = s.draws := rfl

end

section

variable (s : State)

@[simp] theorem State.countDraw_capacity : s.countDraw.capacity = s.capacity := rfl
@[simp] theorem State.countDraw_ring : s.countDraw.ring = s.ring := rfl
@[simp] theorem State.countDraw_led : s.countDraw.led = s.led := rfl
@[simp] theorem State.countDraw_sw : s.countDraw.sw = s.sw := rfl
@[simp] theorem State.countDraw_tUs : s.countDraw.tUs = s.tUs := rfl
@[simp] theorem State.countDraw_pinSw : s.countDraw.pinSw = s.pinSw := rfl
@[simp] theorem State.countDraw_inputs : s.countDraw.inputs = s.inputs := rfl
@[simp] theorem State.countDraw_resp : s.countDraw.resp = s.resp := rfl
@[simp] theorem State.countDraw_draws : s.countDraw.draws = s.draws + 1 := rfl

end

section

variable (s : State) (e : StepInput) (es : List StepInput)

@[simp] theorem State.latch_capacity : (s.latch e es).capacity = s.capacity := rfl
@[simp] theorem State.latch_ring : (s.latch e es).ring = s.ring := rfl
@[simp] theorem State.latch_led : (s.latch e es).led = s.led := rfl
@[simp] theorem State.latch_sw : (s.latch e es).sw = s.sw := rfl
@[simp] theorem State.latch_tUs : (s.latch e es).tUs = clockSample s.tUs e.tUs := rfl
@[simp] theorem State.latch_pinSw : (s.latch e es).pinSw = e.pinSw := rfl
@[simp] theorem State.latch_inputs : (s.latch e es).inputs = es := rfl
@[simp] theorem State.latch_resp : (s.latch e es).resp = none := rfl
@[simp] theorem State.latch_draws : (s.latch e es).draws = s.draws := rfl

end

section

variable (s : State)

@[simp] theorem State.applyReset_capacity : s.applyReset.capacity = s.capacity := rfl
@[simp] theorem State.applyReset_ring : s.applyReset.ring = RingState.reset := rfl
@[simp] theorem State.applyReset_led : s.applyReset.led = LedState.reset := rfl
@[simp] theorem State.applyReset_sw : s.applyReset.sw = SwState.reset := rfl
@[simp] theorem State.applyReset_tUs : s.applyReset.tUs = s.tUs := rfl
@[simp] theorem State.applyReset_pinSw : s.applyReset.pinSw = s.pinSw := rfl
@[simp] theorem State.applyReset_inputs : s.applyReset.inputs = s.inputs := rfl
@[simp] theorem State.applyReset_resp : s.applyReset.resp = s.resp := rfl
@[simp] theorem State.applyReset_draws : s.applyReset.draws = s.draws := rfl

end

section

variable (s : State) (c : Command)

@[simp] theorem State.present_capacity : (s.present c).capacity = s.capacity := rfl
@[simp] theorem State.present_ring : (s.present c).ring = s.ring := rfl
@[simp] theorem State.present_led : (s.present c).led = s.led := rfl
@[simp] theorem State.present_sw : (s.present c).sw = s.sw := rfl
@[simp] theorem State.present_tUs : (s.present c).tUs = s.tUs := rfl
@[simp] theorem State.present_pinSw : (s.present c).pinSw = s.pinSw := rfl
@[simp] theorem State.present_inputs : (s.present c).inputs = s.inputOf c :: s.inputs := rfl
@[simp] theorem State.present_resp : (s.present c).resp = s.resp := rfl
@[simp] theorem State.present_draws : (s.present c).draws = s.draws := rfl

end

/-- Two updates of one field: the later one stays. -/
@[simp] theorem State.setRing_setRing (s : State) (r r' : RingState) : (s.setRing r).setRing r' = s.setRing r' := rfl
@[simp] theorem State.setLed_setLed (s : State) (l l' : LedState) : (s.setLed l).setLed l' = s.setLed l' := rfl
@[simp] theorem State.setSw_setSw (s : State) (w w' : SwState) : (s.setSw w).setSw w' = s.setSw w' := rfl

/-- Updates of different units commute. -/
theorem State.setRing_setLed (s : State) (r : RingState) (l : LedState) :
    (s.setRing r).setLed l = (s.setLed l).setRing r := rfl
theorem State.setRing_setSw (s : State) (r : RingState) (w : SwState) :
    (s.setRing r).setSw w = (s.setSw w).setRing r := rfl
theorem State.setRing_respond (s : State) (r : RingState) (x : Status) (d : Word64) (f : FrameWord) :
    (s.setRing r).respond x d f = (s.respond x d f).setRing r := rfl

end Sys2Proof.Machine
end

