-- ==== Sys2Proof/Laws/Ops.lean ====
section
/-! SUPPORT. One lemma for each shared operation that says once what it can do. -/

namespace Sys2Proof.Machine

/-! ## Arithmetic and flags -/

/-- An advanced index, as R100 and R102 write it. -/
theorem advance_toNat (capacity i : Index) (h : capacity ≠ 0) :
    (advance capacity i).toNat = (i.toNat + 1) % capacity.toNat := by
  have hc : 0 < capacity.toNat := by
    rcases Nat.eq_zero_or_pos capacity.toNat with h0 | h0
    · exact absurd (BitVec.eq_of_toNat_eq (by simpa using h0)) h
    · exact h0
  have := Nat.mod_lt (i.toNat + 1) hc
  have := capacity.isLt
  simp only [advance, BitVec.toNat_ofNat]
  omega

/-- The larger of two indices. -/
theorem maxIndex_toNat (a b : Index) : (maxIndex a b).toNat = max a.toNat b.toNat := by
  unfold maxIndex; split <;> omega

/-- `SizeOf` on indices in range, as R20 writes it. -/
theorem sizeOf_toNat (capacity : Index) (full : Bool) (head tail : Index) (hh : head.toNat < capacity.toNat)
    (ht : tail.toNat < capacity.toNat) :
    (sizeOf capacity full head tail).toNat =
      if full then capacity.toNat else if tail.toNat ≤ head.toNat then head.toNat - tail.toNat
        else capacity.toNat + head.toNat - tail.toNat := by
  have := capacity.isLt
  cases full with
  | true => simp [sizeOf]
  | false => simp only [sizeOf, Bool.false_eq_true, if_false]; split <;> simp <;> omega

/-- `nowMillis()` as R208 writes it. -/
theorem State.nowMillis_toNat (s : State) : s.nowMillis.toNat = (s.tUs.toNat / 1000) % 2 ^ 32 := by
  simp [State.nowMillis, BitVec.toNat_udiv]

/-- A clock sample is at least the sample before it. -/
theorem clockSample_ge (last driven : Word64) : last.toNat ≤ (clockSample last driven).toNat := by
  unfold clockSample; split <;> omega

/-- A clock that the environment lets run is read as it is driven. -/
theorem clockSample_of_le (last driven : Word64) (h : last.toNat ≤ driven.toNat) : clockSample last driven = driven := by
  simp [clockSample, h]

/-! ## Cells -/

/-- If a cell read answers, the cell exists and the answer is its content. -/
theorem State.cellRead_ok {s : State} {i : Index} {c : TimedFrame} (h : s.cellRead i = .ok c) :
    i.toNat < s.capacity.toNat ∧ c = Memory.read s.ring.cells i.toNat := by
  unfold State.cellRead at h
  split at h
  · exact ⟨‹_›, by cases h; rfl⟩
  · cases h

/-- A read of a cell that exists answers. -/
theorem State.cellRead_of_lt (s : State) (i : Index) (h : i.toNat < s.capacity.toNat) :
    s.cellRead i = .ok (Memory.read s.ring.cells i.toNat) := by
  simp [State.cellRead, h]

/-- If a cell write answers, the cell exists and only the array has changed. -/
theorem State.cellWrite_ok {s t : State} {i : Index} {c : TimedFrame} (h : s.cellWrite i c = .ok t) :
    i.toNat < s.capacity.toNat ∧ t = s.setRing { s.ring with cells := Memory.write s.ring.cells i.toNat c } := by
  unfold State.cellWrite at h
  split at h
  · exact ⟨‹_›, by cases h; rfl⟩
  · cases h

/-- A write of a cell that exists answers. -/
theorem State.cellWrite_of_lt (s : State) (i : Index) (c : TimedFrame) (h : i.toNat < s.capacity.toNat) :
    s.cellWrite i c = .ok (s.setRing { s.ring with cells := Memory.write s.ring.cells i.toNat c }) := by
  simp [State.cellWrite, h]

/-! ## Meanings of RING, once each -/

/-- Everything a put can do when it answers: lose the frame of a ring without cells, or store it. -/
theorem execRingPut_cases {f : Frame} {s t : State} (h : execRingPut f s = .next t) :
    f.wellFormed = true ∧
    ((s.capacity = 0 ∧ t = s.setRing (ringAfterLostPut s.ring)) ∨
     (s.capacity ≠ 0 ∧ s.ring.head.toNat < s.capacity.toNat ∧
      t = s.setRing (ringAfterPut s.capacity
        { s.ring with cells := Memory.write s.ring.cells s.ring.head.toNat { frame := f, stamp := s.tUs } }))) := by
  unfold execRingPut at h
  split at h
  · cases h
  · refine ⟨Bool.eq_true_of_not_eq_false ‹_›, ?_⟩
    split at h
    · exact .inl ⟨‹_›, by cases h; rfl⟩
    · refine .inr ⟨‹_›, ?_⟩
      split at h
      · cases h
      · rename_i s' hw
        obtain ⟨hlt, rfl⟩ := State.cellWrite_ok hw
        exact ⟨hlt, by cases h; rfl⟩

/-- Everything a peek can do when it answers. -/
theorem execRingPeek_cases {s t : State} (h : execRingPeek s = .next t) :
    (s.ringHasNone = true ∧ t = s.respond .none 0 0) ∨
    (s.ringHasNone = false ∧ s.ring.tail.toNat < s.capacity.toNat ∧
      t = s.respond .ok 0 (packFrame (Memory.read s.ring.cells s.ring.tail.toNat).frame)) := by
  unfold execRingPeek at h
  split at h
  · exact .inl ⟨‹_›, by cases h; rfl⟩
  · refine .inr ⟨Bool.eq_false_of_not_eq_true ‹_›, ?_⟩
    split at h
    · cases h
    · rename_i c hr
      obtain ⟨hlt, rfl⟩ := State.cellRead_ok hr
      exact ⟨hlt, by cases h; rfl⟩

/-- Everything a get can do when it answers. -/
theorem execRingGet_cases {s t : State} (h : execRingGet s = .next t) :
    (s.ringHasNone = true ∧ t = s.respond .none 0 0) ∨
    (s.ringHasNone = false ∧ s.ring.tail.toNat < s.capacity.toNat ∧
      t = (s.setRing (ringAfterGet s.capacity s.ring)).respond .ok 0
        (packFrame (Memory.read s.ring.cells s.ring.tail.toNat).frame)) := by
  unfold execRingGet at h
  split at h
  · exact .inl ⟨‹_›, by cases h; rfl⟩
  · refine .inr ⟨Bool.eq_false_of_not_eq_true ‹_›, ?_⟩
    split at h
    · cases h
    · rename_i c hr
      obtain ⟨hlt, rfl⟩ := State.cellRead_ok hr
      exact ⟨hlt, by cases h; rfl⟩

/-- Everything an insert-time query can do when it answers. -/
theorem execRingInserttime_cases {s t : State} (h : execRingInserttime s = .next t) :
    (s.ringHasNone = true ∧ t = s.countDraw.respondData (Config.freeStamp s.draws)) ∨
    (s.ringHasNone = false ∧ s.ring.tail.toNat < s.capacity.toNat ∧
      t = s.respondData (Memory.read s.ring.cells s.ring.tail.toNat).stamp) := by
  unfold execRingInserttime at h
  split at h
  · exact .inl ⟨‹_›, by cases h; rfl⟩
  · refine .inr ⟨Bool.eq_false_of_not_eq_true ‹_›, ?_⟩
    split at h
    · cases h
    · rename_i c hr
      obtain ⟨hlt, rfl⟩ := State.cellRead_ok hr
      exact ⟨hlt, by cases h; rfl⟩

/-- The only refusal of a put: its term is not a Frame. -/
theorem execRingPut_refused {f : Frame} {s : State} {r : Refusal} (h : execRingPut f s = .refused r) :
    f.wellFormed = false ∧ r = .notAFrame f.len := by
  unfold execRingPut at h
  split at h
  · exact ⟨‹_›, by cases h; rfl⟩
  · split at h
    · cases h
    · split at h <;> cases h

/-- The only fault of a put: the cell at `head` does not exist. -/
theorem execRingPut_fault {f : Frame} {s : State} {r : Fault} (h : execRingPut f s = .fault r) :
    f.wellFormed = true ∧ s.capacity ≠ 0 ∧ s.capacity.toNat ≤ s.ring.head.toNat ∧ r = .noSuchCell s.ring.head := by
  unfold execRingPut at h
  split at h
  · cases h
  · split at h
    · cases h
    · refine ⟨Bool.eq_true_of_not_eq_false ‹_›, ‹_›, ?_⟩
      unfold State.cellWrite at h
      split at h
      · rename_i hw
        split at hw
        · cases hw
        · exact ⟨Nat.not_lt.1 ‹_›, by cases hw; cases h; rfl⟩
      · cases h

/-- The only fault of a read: the cell does not exist. -/
theorem State.cellRead_error {s : State} {i : Index} {r : Fault} (h : s.cellRead i = .error r) :
    s.capacity.toNat ≤ i.toNat ∧ r = .noSuchCell i := by
  unfold State.cellRead at h
  split at h
  · cases h
  · exact ⟨Nat.not_lt.1 ‹_›, by cases h; rfl⟩

/-- A ring without frames to give: no cells, or size 0. -/
theorem State.ringHasNone_iff (s : State) : s.ringHasNone = true ↔ s.capacity = 0 ∨ s.ring.size = 0 := by
  simp [State.ringHasNone]

/-! ## Issue and step -/

/-- Everything a command can do when it answers: its operation, or the ILLEGAL response. -/
theorem runCommand_cases {c : Command} {s t : State} (h : runCommand c s = .next t) :
    (∃ i, decode c = .ok i ∧ exec i s = .next t) ∨
    (∃ op, decode c = .error (.reservedOpcode op) ∧ t = s.respond .illegal 0 0) := by
  unfold runCommand at h
  split at h
  · exact .inl ⟨_, ‹_›, h⟩
  · rename_i e he
    cases e with
    | reservedOpcode op => exact .inr ⟨op, he, by cases h; rfl⟩
    | notAFrame len => cases h

/-- Why a command is refused: its operation is, or its word is not a Frame. -/
theorem runCommand_refused {c : Command} {s : State} {r : Refusal} (h : runCommand c s = .refused r) :
    (∃ i, decode c = .ok i ∧ exec i s = .refused r) ∨
    (∃ len, decode c = .error (.notAFrame len) ∧ r = .notAFrame len) := by
  unfold runCommand at h
  split at h
  · exact .inl ⟨_, ‹_›, h⟩
  · rename_i e he
    cases e with
    | reservedOpcode op => cases h
    | notAFrame len => exact .inr ⟨len, he, by cases h; rfl⟩

/-- A command faults only with its operation. -/
theorem runCommand_fault {c : Command} {s : State} {r : Fault} (h : runCommand c s = .fault r) :
    ∃ i, decode c = .ok i ∧ exec i s = .fault r := by
  unfold runCommand at h
  split at h
  · exact ⟨_, ‹_›, h⟩
  · rename_i e he
    cases e <;> cases h

/-- If several commands answer, the first answers and the rest go on from there. -/
theorem runCommands_cons {c : Command} {cs : List Command} {s t : State} (h : runCommands (c :: cs) s = .next t) :
    ∃ u, runCommand c s = .next u ∧ runCommands cs u = .next t := by
  simp only [runCommands] at h
  split at h
  · exact ⟨_, ‹_›, h⟩
  · cases h
  · cases h

/-- Everything a step can do when it answers: a reset, or the commands presented. -/
theorem step_cases {s t : State} (h : step s = .next t) :
    (s.nextInput.1.rst = true ∧ t = (s.latch s.nextInput.1 s.nextInput.2).applyReset) ∨
    (s.nextInput.1.rst = false ∧ runCommands s.nextInput.1.commands (s.latch s.nextInput.1 s.nextInput.2) = .next t) := by
  unfold step runInput at h
  split at h
  · exact .inl ⟨‹_›, by cases h; rfl⟩
  · exact .inr ⟨Bool.eq_false_of_not_eq_true ‹_›, h⟩

/-- A property that every operation and the ILLEGAL response keep is kept by the commands of a step. -/
theorem runCommands_induct {P : State → Prop} (hexec : ∀ i s t, P s → exec i s = .next t → P t)
    (hill : ∀ s, P s → P (s.respond .illegal 0 0)) :
    ∀ (cs : List Command) (s t : State), P s → runCommands cs s = .next t → P t := by
  intro cs
  induction cs with
  | nil => intro s t hs h; cases h; exact hs
  | cons c cs ih =>
    intro s t hs h
    obtain ⟨u, hu, h⟩ := runCommands_cons h
    refine ih u t ?_ h
    rcases runCommand_cases hu with ⟨i, -, hi⟩ | ⟨op, -, rfl⟩
    · exact hexec i s u hs hi
    · exact hill s hs

/-- The command placed by `present` is the next one a step runs. -/
theorem step_present (s : State) (c : Command) :
    step (s.present c) = runCommands [c] { s with resp := none } := by
  cases c <;> simp [step, runInput, State.present, State.nextInput, State.inputOf, State.latch, StepInput.commands,
    clockSample]

end Sys2Proof.Machine
end

