-- ==== Sys2Proof/Laws/PerInstr.lean ====
section
/-! SUPPORT. The per-instruction families of LAWS.json. *Opcode*: the word of an instruction carries the opcode that R75 gives its
row, on the port that R75 gives it. -/

namespace Sys2Proof.Laws.Opcode

/-- The encoder's word carries the opcode of the opcode map. -/
def Statement (i : Instr) : Prop := commandOpcode (encode i) = opcodeOf i

/-- The opcode field of a word made of an opcode and an operand. -/
theorem cmdOp_cmdWord (op : BitVec 8) (arg : Word32) : cmdOp (cmdWord op arg) = op := cmdOp_append op arg

theorem ringPut (x : Frame) : Statement (.ringPut x) := rfl
theorem ringPeek : Statement .ringPeek := cmdOp_cmdWord _ _
theorem ringGet : Statement .ringGet := cmdOp_cmdWord _ _
theorem ringInserttime : Statement .ringInserttime := cmdOp_cmdWord _ _
theorem ringClear : Statement .ringClear := cmdOp_cmdWord _ _
theorem ringSize : Statement .ringSize := cmdOp_cmdWord _ _
theorem ringEmpty : Statement .ringEmpty := cmdOp_cmdWord _ _
theorem ringFull : Statement .ringFull := cmdOp_cmdWord _ _
theorem ringAvailable : Statement .ringAvailable := cmdOp_cmdWord _ _
theorem ringFreeslots : Statement .ringFreeslots := cmdOp_cmdWord _ _
theorem ringHighwater : Statement .ringHighwater := cmdOp_cmdWord _ _
theorem ringPuts : Statement .ringPuts := cmdOp_cmdWord _ _
theorem ringGets : Statement .ringGets := cmdOp_cmdWord _ _
theorem ringOverflows : Statement .ringOverflows := cmdOp_cmdWord _ _
theorem ledSetpin : Statement .ledSetpin := cmdOp_cmdWord _ _
theorem ledOn : Statement .ledOn := cmdOp_cmdWord _ _
theorem ledOff : Statement .ledOff := cmdOp_cmdWord _ _
theorem ledToggle : Statement .ledToggle := cmdOp_cmdWord _ _
theorem ledBlink : Statement .ledBlink := cmdOp_cmdWord _ _
theorem ledPulse (x : Bool) : Statement (.ledPulse x) := cmdOp_cmdWord _ _
theorem ledRun : Statement .ledRun := cmdOp_cmdWord _ _
theorem ledGetstate : Statement .ledGetstate := cmdOp_cmdWord _ _
theorem ledSetshort (x : Word32) : Statement (.ledSetshort x) := cmdOp_cmdWord _ _
theorem ledSetlong (x : Word32) : Statement (.ledSetlong x) := cmdOp_cmdWord _ _
theorem ledSethalf (x : Word32) : Statement (.ledSethalf x) := cmdOp_cmdWord _ _
theorem swSetpin (x : Bool) : Statement (.swSetpin x) := cmdOp_cmdWord _ _
theorem swRun : Statement .swRun := cmdOp_cmdWord _ _
theorem swGetstate : Statement .swGetstate := cmdOp_cmdWord _ _
theorem swIspressed : Statement .swIspressed := cmdOp_cmdWord _ _
theorem swStatechanged : Statement .swStatechanged := cmdOp_cmdWord _ _
theorem swCurduration : Statement .swCurduration := cmdOp_cmdWord _ _
theorem swLastduration : Statement .swLastduration := cmdOp_cmdWord _ _
theorem swLastchangetime : Statement .swLastchangetime := cmdOp_cmdWord _ _
theorem swResetduration : Statement .swResetduration := cmdOp_cmdWord _ _
theorem swSetdebounce (x : Word32) : Statement (.swSetdebounce x) := cmdOp_cmdWord _ _

end Sys2Proof.Laws.Opcode
end

