-- ==== Sys2Proof/Tests/Slice0.lean ====
section
/-! SUPPORT. Small tests of the model, each on one step or one function, with results from the vectors of
spec/95_test_vectors.md; the smoke test of WellFormed; and for every statement with hypotheses a state that meets them. -/

namespace Sys2Proof.Tests

open Sys2Proof Sys2Proof.Machine

/-! ## States and inputs used below -/

/-- A payload of zeros. -/
def zeros : Payload := { b0 := 0, b1 := 0, b2 := 0, b3 := 0, b4 := 0, b5 := 0, b6 := 0, b7 := 0 }

/-- A frame named by its id, as the vectors write it. -/
def fr (id : Word32) : Frame := { id := id, ext := false, rtr := false, len := 0, data := zeros }

/-- An 8-byte frame of V-PACK-1. -/
def fr8 : Frame :=
  { id := 0x1FFFFFFF, ext := true, rtr := false, len := 8
    data := { b0 := 1, b1 := 2, b2 := 3, b3 := 4, b4 := 5, b5 := 6, b6 := 7, b7 := 8 } }

/-- A term that is not a Frame: its length is 9. -/
def fr9 : Frame := { fr 1 with len := 9 }

/-- A step with no command, at a clock value in ms. -/
def idleAt (ms : Nat) : StepInput :=
  { rst := false, tUs := BitVec.ofNat 64 (1000 * ms), pinSw := false, p := none, f := none, pFirst := false }

/-- A step with a port F word, at a clock value in ms, the pin low. -/
def fAt (ms : Nat) (w : CmdWord) : StepInput := { idleAt ms with f := some w }

/-- A step with a port P word, at a clock value in ms. -/
def pAt (ms : Nat) (w : FrameWord) : StepInput := { idleAt ms with p := some w }

/-- A step that asserts reset, with commands on both ports that are not to be accepted. -/
def resetAt (ms : Nat) : StepInput := { idleAt ms with rst := true, p := some 1, f := some 0x1100000000 }

/-- The reset state with a clock value in ms. -/
def at' (c : Index) (ms : Nat) : State := { State.resetWith c with tUs := BitVec.ofNat 64 (1000 * ms) }

/-- The reset state with inputs. -/
def fed (c : Index) (es : List StepInput) : State := { State.resetWith c with inputs := es }

/-- Scenario A (S1) after its third put: capacity 2, full, one overflow. -/
def ringS1 : RingState :=
  { cells := [(0, { frame := fr 3, stamp := 3000 }), (1, { frame := fr 2, stamp := 2000 })], head := 1, tail := 1, full := true
    size := 2, highWater := 2, puts := 3, gets := 0, overflows := 1 }

/-- S1 after step 3, at 3000 us. -/
def full2 : State := { State.resetWith 2 with ring := ringS1, tUs := 3000 }

/-- V-RING-3 after step 4: capacity 3, `head < tail`, two frames. -/
def ringV3 : RingState :=
  { cells := [(0, { frame := fr 0x10, stamp := 100 }), (1, { frame := fr 0x11, stamp := 200 }), (2, { frame := fr 0x12, stamp := 300 })]
    head := 0, tail := 1, full := false, size := 2, highWater := 2, puts := 3, gets := 1, overflows := 0 }

/-- V-RING-3 after step 4, at 300 us. -/
def part3 : State := { State.resetWith 3 with ring := ringV3, tUs := 300 }

/-- A ring of 255 cells with one frame, in the last cell. -/
def last255 : State :=
  { State.resetWith 255 with
    ring := { cells := [(254, { frame := fr 5, stamp := 0 })], head := 0, tail := 254, full := false, size := 1, highWater := 1
              puts := 255, gets := 254, overflows := 0 } }

/-- V-RING-1 after one put. -/
def one4 : State :=
  { State.resetWith 4 with
    ring := { RingState.reset with cells := [(0, { frame := fr 1, stamp := 0 })], head := 1, size := 1, highWater := 1, puts := 1 } }

/-- A ring with registers that no run reaches: `head` and `tail` outside the array. -/
def broken4 : State :=
  { State.resetWith 4 with ring := { RingState.reset with head := 4, tail := 4, size := 1 } }

/-- V-LED-2 after step 2: blinking, lit since 1000 ms. -/
def blinking : State :=
  { State.resetWith 4 with led := { LedState.reset with mode := .blink, level := true, phaseStart := 1000 }, tUs := 1000000 }

/-- Blinking, no run yet. -/
def armed : State := { State.resetWith 4 with led := { LedState.reset with mode := .blink, fresh := true } }

/-- V-LED-8: a short pulse started 50 ms before the millisecond wrap. -/
def pulsing : State :=
  { State.resetWith 4 with
    led := { LedState.reset with mode := .pulse, level := true, pulseStart := 0xFFFFFFCE }, tUs := 4294967246000 }

/-- The LED on. -/
def lit : State := { State.resetWith 4 with led := { LedState.reset with mode := .on, level := true } }

/-- S4 after step 2: the pin low, the first differing sample at 0 ms, now 20 ms. -/
def pressing : State :=
  { State.resetWith 4 with sw := { SwState.reset with raw := false }, tUs := 20000 }

/-- V-SW-7 after step 3: pressed since 120 ms, the change not yet reported. -/
def pressed : State :=
  { State.resetWith 4 with
    sw := { SwState.reset with raw := false, stable := false, changed := true, mismatchStart := 100, currentStateStart := 120
                               lastStateDuration := 120, lastChangeTime := 120 }
    tUs := 120000 }

/-- The ring registers of a result. -/
def ringOf (r : Result) : Option RingState :=
  match r with
  | .next s => some s.ring
  | .fault _ => none
  | .refused _ => none

/-- The LED registers of a result. -/
def ledOf (r : Result) : Option LedState :=
  match r with
  | .next s => some s.led
  | .fault _ => none
  | .refused _ => none

/-- The SW registers of a result. -/
def swOf (r : Result) : Option SwState :=
  match r with
  | .next s => some s.sw
  | .fault _ => none
  | .refused _ => none

/-- The answer OK with a number. -/
def okData (n : Nat) : Option Response := some { status := .ok, data := BitVec.ofNat 64 n, frame := 0 }

/-- The answer OK with a frame. -/
def okFrame (f : Frame) : Option Response := some { status := .ok, data := 0, frame := packFrame f }

/-- The answer NONE. -/
def noneAnswer : Option Response := some { status := .none, data := 0, frame := 0 }

/-! ## WellFormed: the one check, and what it refuses (R23, U5) -/

theorem test_wellformed_refuses_len9 : wellFormed (.ringPut fr9) = false := by decide

theorem test_wellformed_refuses_len15 : wellFormed (.ringPut { fr 1 with len := 15 }) = false := by decide

theorem test_wellformed_admits_len8 : wellFormed (.ringPut fr8) = true := by decide

/-- V-PACK-1, last row: 102 bits of ones are not a Frame. -/
theorem test_decode_refuses_all_ones : decode (.p 0x3FFFFFFFFFFFFFFFFFFFFFFFFF) = .error (.notAFrame 15) := by rfl

theorem test_put_refuses_len9 : exec (.ringPut fr9) one4 = .refused (.notAFrame 9) := by rfl

/-! ## Primitives and clock (V-PRIM-1, V-CLK-1) -/

theorem test_sub32 : sub32 100 100 = 0 ∧ sub32 5 0xFFFFFFF6 = 15 ∧ sub32 0 1 = 0xFFFFFFFF := by decide

theorem test_inc32 : inc32 0xFFFFFFFF = 0 ∧ inc32 41 = 42 := by decide

theorem test_now_millis :
    State.nowMillis { full2 with tUs := 999 } = 0 ∧ State.nowMillis { full2 with tUs := 20000 } = 20
    ∧ State.nowMillis { full2 with tUs := 4294967295999 } = 0xFFFFFFFF ∧ State.nowMillis { full2 with tUs := 4294967296000 } = 0 := by
  decide

/-! ## Packing (V-PACK-1) -/

theorem test_pack_len8 : packFrame fr8 = 0x201C1814100C080611FFFFFFF := by decide

theorem test_pack_worked_example :
    packFrame { fr 1 with len := 2, data := { zeros with b0 := 0xAA, b1 := 0xBB } } = 0x2EEA8800000001 := by decide

theorem test_pack_all_ones :
    packFrame { id := 0xFFFFFFFF, ext := true, rtr := true, len := 8
                data := { b0 := 0xFF, b1 := 0xFF, b2 := 0xFF, b3 := 0xFF, b4 := 0xFF, b5 := 0xFF, b6 := 0xFF, b7 := 0xFF } }
      = 0x3FFFFFFFFFFFFFFFE3FFFFFFFF := by decide

/-! ## Decoding: one word for every constructor, written from R71, R73, R75 and R79 (V-DEC-1 among them) -/

theorem test_decode_put : decode (.p 0x201C1814100C080611FFFFFFF) = .ok (.ringPut fr8) := by rfl

theorem test_decode_ring :
    decode (.f 0x0100000000) = .ok .ringPeek ∧ decode (.f 0x0200000000) = .ok .ringGet
    ∧ decode (.f 0x0300000000) = .ok .ringInserttime ∧ decode (.f 0x0400000000) = .ok .ringClear
    ∧ decode (.f 0x05DEADBEEF) = .ok .ringSize ∧ decode (.f 0x0600000000) = .ok .ringEmpty
    ∧ decode (.f 0x0700000000) = .ok .ringFull ∧ decode (.f 0x0800000000) = .ok .ringAvailable
    ∧ decode (.f 0x0900000000) = .ok .ringFreeslots ∧ decode (.f 0x0A00000000) = .ok .ringHighwater
    ∧ decode (.f 0x0B00000000) = .ok .ringPuts ∧ decode (.f 0x0C00000000) = .ok .ringGets
    ∧ decode (.f 0x0D00000000) = .ok .ringOverflows := by
  refine ⟨?_, ?_, ?_, ?_, ?_, ?_, ?_, ?_, ?_, ?_, ?_, ?_, ?_⟩ <;> rfl

theorem test_decode_led :
    decode (.f 0x1000000000) = .ok .ledSetpin ∧ decode (.f 0x1100000000) = .ok .ledOn
    ∧ decode (.f 0x1200000000) = .ok .ledOff ∧ decode (.f 0x1300000000) = .ok .ledToggle
    ∧ decode (.f 0x1400000000) = .ok .ledBlink ∧ decode (.f 0x1500000003) = .ok (.ledPulse true)
    ∧ decode (.f 0x15FFFFFFFE) = .ok (.ledPulse false) ∧ decode (.f 0x1600000000) = .ok .ledRun
    ∧ decode (.f 0x1700000000) = .ok .ledGetstate ∧ decode (.f 0x18000000FA) = .ok (.ledSetshort 250)
    ∧ decode (.f 0x1980000001) = .ok (.ledSetlong 0x80000001) ∧ decode (.f 0x1A000000C8) = .ok (.ledSethalf 200) := by
  refine ⟨?_, ?_, ?_, ?_, ?_, ?_, ?_, ?_, ?_, ?_, ?_, ?_⟩ <;> rfl

theorem test_decode_sw :
    decode (.f 0x2000000001) = .ok (.swSetpin true) ∧ decode (.f 0x2100000000) = .ok .swRun
    ∧ decode (.f 0x2200000000) = .ok .swGetstate ∧ decode (.f 0x2300000000) = .ok .swIspressed
    ∧ decode (.f 0x2400000000) = .ok .swStatechanged ∧ decode (.f 0x2500000000) = .ok .swCurduration
    ∧ decode (.f 0x2600000000) = .ok .swLastduration ∧ decode (.f 0x2700000000) = .ok .swLastchangetime
    ∧ decode (.f 0x2800000000) = .ok .swResetduration ∧ decode (.f 0x2900000032) = .ok (.swSetdebounce 50) := by
  refine ⟨?_, ?_, ?_, ?_, ?_, ?_, ?_, ?_, ?_, ?_⟩ <;> rfl

/-- V-DEC-1: the reserved words. -/
theorem test_decode_reserved :
    decode (.f 0x0000000000) = .error (.reservedOpcode 0x00) ∧ decode (.f 0x0E00000000) = .error (.reservedOpcode 0x0E)
    ∧ decode (.f 0x0F00000000) = .error (.reservedOpcode 0x0F) ∧ decode (.f 0x1B00000000) = .error (.reservedOpcode 0x1B)
    ∧ decode (.f 0x2A00000000) = .error (.reservedOpcode 0x2A) ∧ decode (.f 0x3000000000) = .error (.reservedOpcode 0x30)
    ∧ decode (.f 0xFF12345678) = .error (.reservedOpcode 0xFF) := by
  refine ⟨?_, ?_, ?_, ?_, ?_, ?_, ?_⟩ <;> rfl

theorem test_table_word_of_put : decodeTableWord 40 0x01 = some (.ringPut (fr 1)) := by rfl

theorem test_table_word_runs_first : respOf (step (State.reset.withFetchWord 40 0x0900000000)) = okData 4 := by decide

theorem test_illegal_answers : respOf (runCommand (.f 0x2F00000001) full2) = some { status := .illegal, data := 0, frame := 0 } := by
  decide

/-! ## RING -/

/-- S1 step 3: the put into the full ring overwrites id 1 and counts an overflow. -/
theorem test_put_overwrites_oldest :
    ringOf (exec (.ringPut (fr 3)) { State.resetWith 2 with
      ring := { RingState.reset with cells := [(0, { frame := fr 1, stamp := 1000 }), (1, { frame := fr 2, stamp := 2000 })]
                                     full := true, size := 2, highWater := 2, puts := 2 }
      tUs := 3000 }) = some ringS1 := by
  decide

/-- V-RING-9: `puts` wraps and `size` grows. -/
theorem test_put_wraps_puts :
    ringOf (exec (.ringPut (fr 7)) { State.resetWith 2 with ring := { RingState.reset with puts := 0xFFFFFFFF } }) =
      some { RingState.reset with cells := [(0, { frame := fr 7, stamp := 0 })], head := 1, size := 1, highWater := 1, puts := 0 } := by
  decide

/-- S1 step 6. -/
theorem test_peek_answers_id2 : respOf (exec .ringPeek full2) = okFrame (fr 2) := by decide

/-- S1 step 7. -/
theorem test_get_answers_id2 : respOf (exec .ringGet full2) = okFrame (fr 2) := by decide

theorem test_get_moves_tail :
    ringOf (exec .ringGet full2) = some { ringS1 with tail := 0, full := false, size := 1, gets := 1 } := by decide

/-- V-RING-3 after step 4: the oldest frame is at the tail. -/
theorem test_inserttime : respOf (exec .ringInserttime part3) = okData 200 := by decide

/-- V-RING-6. -/
theorem test_clear_keeps_counters :
    ringOf (exec .ringClear full2) = some { ringS1 with head := 0, tail := 0, full := false, size := 0 } := by decide

/-- S1 step 4. -/
theorem test_size : respOf (exec .ringSize full2) = okData 2 := by decide

/-- V-RING-1. -/
theorem test_empty : respOf (exec .ringEmpty (State.resetWith 4)) = okData 1 ∧ respOf (exec .ringEmpty one4) = okData 0 := by decide

theorem test_full : respOf (exec .ringFull full2) = okData 1 ∧ respOf (exec .ringFull part3) = okData 0 := by decide

/-- V-RING-1. -/
theorem test_available :
    respOf (exec .ringAvailable (State.resetWith 4)) = okData 0 ∧ respOf (exec .ringAvailable one4) = okData 1 := by decide

/-- V-RING-1. -/
theorem test_freeslots :
    respOf (exec .ringFreeslots (State.resetWith 4)) = okData 4 ∧ respOf (exec .ringFreeslots one4) = okData 3 := by decide

theorem test_highwater : respOf (exec .ringHighwater { full2 with ring := { ringS1 with size := 0 } }) = okData 2 := by decide

/-- S1 step 10, 11 and 5. -/
theorem test_counters :
    respOf (exec .ringPuts full2) = okData 3 ∧ respOf (exec .ringGets full2) = okData 0
    ∧ respOf (exec .ringOverflows full2) = okData 1 := by decide

/-- V-RING-7: a ring without cells counts the put as lost, and is empty and not full. -/
theorem test_put_without_cells :
    ringOf (exec (.ringPut (fr 9)) (State.resetWith 0)) = some { RingState.reset with puts := 1, overflows := 1 } := by decide

theorem test_query_without_cells :
    respOf (exec .ringEmpty (State.resetWith 0)) = okData 1 ∧ respOf (exec .ringGet (State.resetWith 0)) = noneAnswer := by decide

/-! ## LED -/

/-- V-LED-14. -/
theorem test_setpin_stops_blink :
    ledOf (exec .ledSetpin blinking) =
      some { LedState.reset with mode := .off, level := false, oe := true, phaseStart := 1000 } := by decide

/-- V-LED-15: ON before SETPIN lights the level, not the pad. -/
theorem test_on : ledOf (exec .ledOn armed) = some { LedState.reset with mode := .on, level := true } := by decide

theorem test_off : ledOf (exec .ledOff lit) = some LedState.reset := by decide

/-- V-LED-4: a toggle in a pulse ends it dark. -/
theorem test_toggle : ledOf (exec .ledToggle pulsing) = some { LedState.reset with pulseStart := 0xFFFFFFCE } := by decide

/-- V-LED-10: the level stays. -/
theorem test_blink :
    ledOf (exec .ledBlink { lit with led := { lit.led with cfgHalf := 200 } }) =
      some { LedState.reset with mode := .blink, level := true, fresh := true, cfgHalf := 200, halfPeriod := 200 } := by decide

/-- V-LED-4: a long pulse at 10 ms. -/
theorem test_pulse_long :
    ledOf (exec (.ledPulse false) (at' 4 10)) =
      some { LedState.reset with mode := .pulse, level := true, pulseStart := 10, pulseDur := 500 } := by decide

theorem test_pulse_short :
    ledOf (exec (.ledPulse true) { lit with led := { lit.led with cfgShort := 250 } }) =
      some { LedState.reset with mode := .pulse, level := true, cfgShort := 250, pulseDur := 250 } := by decide

/-- V-LED-8: 99 ms after the start, across the wrap, and 100 ms. -/
theorem test_run_pulse_wraps :
    ledOf (exec .ledRun { pulsing with tUs := 4294967345000 }) = some pulsing.led
    ∧ ledOf (exec .ledRun { pulsing with tUs := 4294967346000 }) =
      some { LedState.reset with pulseStart := 0xFFFFFFCE } := by decide

/-- V-LED-2 steps 3 and 4. -/
theorem test_run_blink :
    ledOf (exec .ledRun { blinking with tUs := 1499999 }) = some blinking.led
    ∧ ledOf (exec .ledRun { blinking with tUs := 1500000 }) =
      some { LedState.reset with mode := .blink, level := false, phaseStart := 1500 } := by decide

/-- V-LED-16: no timer is evaluated. -/
theorem test_led_getstate : respOf (exec .ledGetstate { pulsing with tUs := 0xFFFFFFFFFFFFFFFF }) = okData 1 := by decide

theorem test_setshort : ledOf (exec (.ledSetshort 250) lit) = some { lit.led with cfgShort := 250 } := by decide

theorem test_setlong : ledOf (exec (.ledSetlong 7) lit) = some { lit.led with cfgLong := 7 } := by decide

theorem test_sethalf : ledOf (exec (.ledSethalf 0) lit) = some { lit.led with cfgHalf := 0 } := by decide

/-! ## SW -/

/-- V-SW-6: active-high turns the pull-down on. -/
theorem test_sw_setpin :
    swOf (exec (.swSetpin true) pressed) = some { pressed.sw with activeHigh := true, cfgd := true } := by decide

/-- S4 step 4: 20 ms after the first differing sample. -/
theorem test_sw_run_flips :
    swOf (exec .swRun pressing) =
      some { SwState.reset with raw := false, stable := false, changed := true, currentStateStart := 20, lastStateDuration := 20
                                lastChangeTime := 20 } := by decide

/-- V-SW-3 step 1 and V-SW-4 step 3: a first differing sample starts the interval, an equal one breaks it. -/
theorem test_sw_run_interval :
    swOf (exec .swRun (at' 4 10)) = some { SwState.reset with raw := false, mismatchStart := 10 }
    ∧ swOf (exec .swRun { pressing with pinSw := true }) = some SwState.reset := by decide

theorem test_sw_getstate :
    respOf (exec .swGetstate pressed) = okData 0 ∧ respOf (exec .swGetstate (State.resetWith 4)) = okData 1 := by decide

theorem test_sw_ispressed :
    respOf (exec .swIspressed pressed) = okData 1 ∧ respOf (exec .swIspressed (State.resetWith 4)) = okData 0 := by decide

/-- S4 step 6. -/
theorem test_sw_statechanged :
    respOf (exec .swStatechanged pressed) = okData 1
    ∧ swOf (exec .swStatechanged pressed) = some { pressed.sw with changed := false } := by decide

/-- V-SW-2. -/
theorem test_sw_curduration : respOf (exec .swCurduration (at' 4 1234)) = okData 1234 := by decide

theorem test_sw_lastduration : respOf (exec .swLastduration pressed) = okData 120 := by decide

theorem test_sw_lastchangetime : respOf (exec .swLastchangetime { pressed with tUs := 0 }) = okData 120 := by decide

/-- V-SW-9. -/
theorem test_sw_resetduration :
    swOf (exec .swResetduration { pressed with tUs := 300000 }) = some { pressed.sw with currentStateStart := 300 } := by decide

theorem test_sw_setdebounce : swOf (exec (.swSetdebounce 5) pressed) = some { pressed.sw with debounceMs := 5 } := by decide

/-! ## Witnesses: for each statement with hypotheses, states and operands that meet them together -/

theorem full2_inv : BlockInv full2 := by unfold BlockInv RingInv RingInvZero RingInvPos LedInv; decide

theorem part3_inv : BlockInv part3 := by unfold BlockInv RingInv RingInvZero RingInvPos LedInv; decide

theorem last255_inv : BlockInv last255 := by unfold BlockInv RingInv RingInvZero RingInvPos LedInv; decide

theorem reset0_inv : BlockInv (State.resetWith 0) := by unfold BlockInv RingInv RingInvZero RingInvPos LedInv; decide

theorem witness_DecodeInvertsEncode : wellFormed (.ringPut fr8) = true ∧ wellFormed (.ledSetshort 0xFFFFFFFF) = true := by decide

theorem witness_EncodeKeepsWhatDecodeReads :
    decode (.f 0x15FFFFFFFF) = .ok (.ledPulse true) ∧ decode (.p 0x3FFFFFFFFFFFFFFFE3FFFFFFFF) =
      .ok (.ringPut { id := 0xFFFFFFFF, ext := true, rtr := true, len := 8
                      data := { b0 := 0xFF, b1 := 0xFF, b2 := 0xFF, b3 := 0xFF, b4 := 0xFF, b5 := 0xFF, b6 := 0xFF, b7 := 0xFF } }) :=
  ⟨rfl, rfl⟩

theorem witness_FramePackingLayout : frameFields 0x201C1814100C080611FFFFFFF = fr8 ∧ packFrame fr8 = 0x201C1814100C080611FFFFFFF := by
  decide

theorem witness_ReservedOpcodesAnswerIllegal :
    reservedOnF 0x00 = true ∧ reservedOnF 0x01 = false ∧ reservedOnF 0x0D = false ∧ reservedOnF 0x0E = true
    ∧ reservedOnF 0x0F = true ∧ reservedOnF 0x10 = false ∧ reservedOnF 0x1A = false ∧ reservedOnF 0x1B = true
    ∧ reservedOnF 0x1F = true ∧ reservedOnF 0x20 = false ∧ reservedOnF 0x29 = false ∧ reservedOnF 0x2A = true
    ∧ reservedOnF 0x2F = true ∧ reservedOnF 0x30 = true ∧ reservedOnF 0xFF = true := by decide

theorem witness_UnreadOperandBitsIgnored :
    (flagFormOp 0x16 = false ∧ msFormOp 0x16 = false)
    ∧ (flagFormOp 0x15 = true ∧ (0x1 : Word32).getLsbD 0 = (0xFFFFFFFF : Word32).getLsbD 0) := by decide

theorem witness_OperationDependsOnOpcodeAlone :
    cmdOp 0x1500000000 = cmdOp 0x15FFFFFFFF ∧ decode (.f 0x1500000000) = .ok (.ledPulse false) := ⟨by decide, rfl⟩

theorem witness_PortsSplitTheOperations :
    decode (.p 1) = .ok (.ringPut (fr 1)) ∧ ∀ f, Instr.swSetdebounce 20 ≠ .ringPut f := ⟨rfl, fun _ h => nomatch h⟩

/-- A command, and a reserved opcode. -/
theorem witness_StepRunsForegroundCommand :
    ((fed 4 [fAt 7 0x1100000000, idleAt 8]).inputs = fAt 7 0x1100000000 :: [idleAt 8] ∧ (fAt 7 0x1100000000).rst = false
      ∧ (fAt 7 0x1100000000).p = none ∧ (fAt 7 0x1100000000).f = some 0x1100000000 ∧ decode (.f 0x1100000000) = .ok .ledOn)
    ∧ ((fed 4 [fAt 7 0x2F00000001]).inputs = fAt 7 0x2F00000001 :: [] ∧ (fAt 7 0x2F00000001).f = some 0x2F00000001
      ∧ reservedOnF (cmdOp 0x2F00000001) = true) :=
  ⟨⟨rfl, rfl, rfl, rfl, rfl⟩, rfl, rfl, by decide⟩

/-- A put, and words whose length field is 9 and 15. -/
theorem witness_StepRunsProducerCommand :
    ((fed 4 [pAt 7 1]).inputs = pAt 7 1 :: [] ∧ (pAt 7 1).rst = false ∧ (pAt 7 1).p = some 1 ∧ (pAt 7 1).f = none
      ∧ decode (.p 1) = .ok (.ringPut (fr 1)))
    ∧ ((pAt 7 0x2400000000).p = some 0x2400000000 ∧ 9 ≤ ((0x2400000000 : FrameWord).extractLsb' 34 4).toNat
      ∧ 9 ≤ ((0x3C00000000 : FrameWord).extractLsb' 34 4).toNat) :=
  ⟨⟨rfl, rfl, rfl, rfl, rfl⟩, rfl, by decide, by decide⟩

/-- Both orders: a put with a get, a put with a reserved opcode, a word that is not a Frame with a get or a reserved opcode. -/
theorem witness_StepRunsBothCommandsInOrder (first : Bool) (wp : FrameWord) (wf : CmdWord) :
    (let e := { pAt 7 wp with f := some wf, pFirst := first };
      (fed 4 [e]).inputs = e :: [] ∧ e.rst = false ∧ e.p = some wp ∧ e.f = some wf ∧ e.pFirst = first)
    ∧ decode (.p 1) = .ok (.ringPut (fr 1)) ∧ decode (.f 0x0200000000) = .ok .ringGet
    ∧ reservedOnF (cmdOp 0x0000000000) = true ∧ 9 ≤ ((0x2400000000 : FrameWord).extractLsb' 34 4).toNat :=
  ⟨⟨rfl, rfl, rfl, rfl, rfl⟩, rfl, rfl, by decide, by decide⟩

theorem witness_IdleStepKeepsRegisters :
    full2.inputs = [] ∧ (fed 4 [idleAt 3]).inputs = idleAt 3 :: [] ∧ (idleAt 3).rst = false ∧ (idleAt 3).p = none
    ∧ (idleAt 3).f = none := ⟨rfl, rfl, rfl, rfl, rfl⟩

theorem witness_ResetInputRestoresResetState :
    ({ full2 with inputs := [resetAt 1] } : State).inputs = resetAt 1 :: [] ∧ (resetAt 1).rst = true := ⟨rfl, rfl⟩

/-- An input that drives the clock back. -/
theorem witness_ClockNeverGoesBack : ∃ t, step { full2 with inputs := [idleAt 0] } = .next t := ⟨_, rfl⟩

theorem witness_MillisecondsFromMicroseconds :
    ({ full2 with tUs := 4294967296999 } : State).tUs = 4294967296999 := rfl

/-- A put and a get in one step, on the full ring. -/
theorem witness_StepKeepsBlockInvariant :
    BlockInv { full2 with inputs := [{ pAt 7 1 with f := some 0x0200000000, pFirst := true }] }
    ∧ ∃ t, step { full2 with inputs := [{ pAt 7 1 with f := some 0x0200000000, pFirst := true }] } = .next t :=
  ⟨full2_inv, _, rfl⟩

/-- Both sides of the refusal, at the length fields 9 and 15. -/
theorem witness_StepNeverFaults :
    BlockInv { full2 with inputs := [pAt 7 0x2400000000] }
    ∧ ((pAt 7 0x2400000000).rst = false ∧ (pAt 7 0x2400000000).p = some 0x2400000000
      ∧ (0x2400000000 : FrameWord).extractLsb' 34 4 = 9
      ∧ step { full2 with inputs := [pAt 7 0x2400000000] } = .refused (.notAFrame 9))
    ∧ step { full2 with inputs := [pAt 7 0x3C00000000] } = .refused (.notAFrame 15) :=
  ⟨full2_inv, ⟨rfl, rfl, by decide, rfl⟩, rfl⟩

theorem witness_EveryOperationCompletes : BlockInv part3 ∧ wellFormed (.ringPut fr8) = true := ⟨part3_inv, by decide⟩

/-- The last cell of the largest ring, the full ring, and the ring of one cell (V-RING-2). -/
theorem witness_PutStoresFrame :
    let s := { last255 with ring := { last255.ring with head := 254 } }
    let s1 := { State.resetWith 1 with ring := { RingState.reset with full := true, size := 1, highWater := 1, puts := 1 } }
    (fr8.len.toNat ≤ 8 ∧ s.ring.head.toNat < s.capacity.toNat ∧ s.ring.tail.toNat < s.capacity.toNat)
    ∧ (full2.ring.head.toNat < full2.capacity.toNat ∧ full2.ring.tail.toNat < full2.capacity.toNat)
    ∧ (s1.ring.head.toNat < s1.capacity.toNat ∧ s1.ring.tail.toNat < s1.capacity.toNat) := by decide

theorem witness_RingWithoutCells : (State.resetWith 0).capacity = 0 ∧ fr8.len.toNat ≤ 8 := by decide

theorem witness_RingStopsOnlyOutsideTheSpec :
    (9 ≤ fr9.len.toNat
      ∧ (fr8.len.toNat ≤ 8 ∧ broken4.capacity ≠ 0 ∧ broken4.capacity.toNat ≤ broken4.ring.head.toNat)
      ∧ (broken4.ring.size ≠ 0 ∧ broken4.capacity.toNat ≤ broken4.ring.tail.toNat))
    ∧ exec (.ringPut fr9) one4 = .refused (.notAFrame 9) ∧ exec (.ringPut fr8) broken4 = .fault (.noSuchCell 4)
    ∧ exec .ringGet broken4 = .fault (.noSuchCell 4) := ⟨by decide, rfl, rfl, rfl⟩

theorem witness_PeekAnswersOldest :
    ((State.resetWith 0).capacity = 0 ∨ (State.resetWith 0).ring.size = 0)
    ∧ ((State.resetWith 4).capacity = 0 ∨ (State.resetWith 4).ring.size = 0)
    ∧ (last255.ring.size ≠ 0 ∧ last255.ring.tail.toNat < last255.capacity.toNat) := by decide

theorem witness_GetRemovesOldest :
    ((State.resetWith 0).capacity = 0 ∨ (State.resetWith 0).ring.size = 0)
    ∧ ((State.resetWith 1).capacity = 0 ∨ (State.resetWith 1).ring.size = 0)
    ∧ (last255.ring.size ≠ 0 ∧ last255.ring.head.toNat < last255.capacity.toNat
      ∧ last255.ring.tail.toNat < last255.capacity.toNat) := by decide

theorem witness_InserttimeAnswersStamp :
    ((State.resetWith 0).capacity = 0 ∨ (State.resetWith 0).ring.size = 0)
    ∧ ((State.resetWith 1).capacity = 0 ∨ (State.resetWith 1).ring.size = 0)
    ∧ (full2.ring.size ≠ 0 ∧ full2.ring.tail.toNat < full2.capacity.toNat) := by decide

theorem witness_RingQueriesAnswer :
    (full2.capacity ≠ 0 ∧ full2.ring.size.toNat ≤ full2.capacity.toNat)
    ∧ ((State.resetWith 255).capacity ≠ 0 ∧ (State.resetWith 255).ring.size.toNat ≤ (State.resetWith 255).capacity.toNat) := by decide

theorem witness_RingIsBoundedQueue :
    (BlockInv full2 ∧ ∃ t, exec .ringGet full2 = .next t) ∧ (BlockInv part3 ∧ ∃ t, exec (.ringPut fr8) part3 = .next t)
    ∧ (∃ t, exec .ringInserttime full2 = .next t)
    ∧ full2.contents = [{ frame := fr 2, stamp := 2000 }, { frame := fr 3, stamp := 3000 }] :=
  ⟨⟨full2_inv, _, rfl⟩, ⟨part3_inv, _, rfl⟩, ⟨_, rfl⟩, rfl⟩

theorem witness_PutWinsOnFull :
    (BlockInv full2 ∧ full2.capacity ≠ 0 ∧ full2.ring.full = true) ∧ (BlockInv part3 ∧ part3.capacity ≠ 0 ∧ part3.ring.full = false)
    ∧ fr8.len.toNat ≤ 8 := ⟨⟨full2_inv, by decide⟩, ⟨part3_inv, by decide⟩, by decide⟩

/-- A put on a full ring, and a clear of an empty one. -/
theorem witness_CountersAccountForFrames :
    (BlockInv full2 ∧ CountsAgree full2.ring ∧ ∃ t, exec (.ringPut fr8) full2 = .next t)
    ∧ (BlockInv (State.resetWith 0) ∧ CountsAgree (State.resetWith 0).ring ∧ (∃ t, exec .ringClear (State.resetWith 0) = .next t)
      ∧ (State.resetWith 0).ring.size = 0) :=
  ⟨⟨full2_inv, by unfold CountsAgree; decide, _, rfl⟩, reset0_inv, by unfold CountsAgree; decide, ⟨_, rfl⟩, rfl⟩

theorem witness_PutsCoverGets :
    BlockInv last255 ∧ PutsCover last255.ring ∧ (∃ t, exec .ringGet last255 = .next t) ∧ last255.ring.puts.toNat + 1 < 2 ^ 32 :=
  ⟨last255_inv, by unfold PutsCover; decide, ⟨_, rfl⟩, by decide⟩

theorem witness_HighWaterNeverDecreases :
    ∃ t, step { full2 with inputs := [fAt 7 0x0400000000] } = .next t
      ∧ ∀ e rest, ({ full2 with inputs := [fAt 7 0x0400000000] } : State).inputs = e :: rest → e.rst = false :=
  ⟨_, rfl, fun _ _ h => (by cases h; rfl)⟩

theorem witness_PutBetweenPeekAndGet :
    (BlockInv full2 ∧ full2.ring.size ≠ 0 ∧ full2.ring.full = true ∧ ∃ t, exec (.ringPut fr8) full2 = .next t)
    ∧ (BlockInv part3 ∧ part3.ring.size ≠ 0 ∧ part3.ring.full = false ∧ ∃ t, exec (.ringPut fr8) part3 = .next t) :=
  ⟨⟨full2_inv, by decide, by decide, _, rfl⟩, part3_inv, by decide, by decide, _, rfl⟩

theorem witness_QueryResultsThatStayTrue :
    BlockInv { full2 with inputs := [{ pAt 7 1 with f := some 0x0100000000 }] }
    ∧ (∃ t, step { full2 with inputs := [{ pAt 7 1 with f := some 0x0100000000 }] } = .next t)
    ∧ (∀ e rest, ({ full2 with inputs := [{ pAt 7 1 with f := some 0x0100000000 }] } : State).inputs = e :: rest →
        e.rst = false ∧ e.foreground ≠ some .ringGet ∧ e.foreground ≠ some .ringClear)
    ∧ full2.ring.size ≠ 0 ∧ full2.ring.full = true :=
  ⟨full2_inv, ⟨_, rfl⟩, fun _ _ h => (by cases h; decide), by decide, by decide⟩

theorem witness_StampsStayOrdered :
    BlockInv { full2 with inputs := [pAt 7 1] } ∧ StampsOrdered { full2 with inputs := [pAt 7 1] }
    ∧ ∃ t, step { full2 with inputs := [pAt 7 1] } = .next t :=
  ⟨full2_inv, by unfold StampsOrdered; decide, _, rfl⟩

/-- A query, a get, and a put into a ring that is not full. -/
theorem witness_RingRegistersHaveTheirWriters :
    ((∃ t, exec .ringSize full2 = .next t) ∧ (∀ f, Instr.ringSize ≠ .ringPut f) ∧ Instr.ringSize ≠ .ringClear
      ∧ Instr.ringSize ≠ .ringGet)
    ∧ ((∃ t, exec (.ringPut fr8) part3 = .next t) ∧ part3.ring.full = false ∧ part3.capacity ≠ 0) :=
  ⟨⟨⟨_, rfl⟩, fun _ h => (nomatch h), (nomatch ·), (nomatch ·)⟩, ⟨_, rfl⟩, rfl, by decide⟩

/-- Each mode. -/
theorem witness_LedRunPerformsTimedTransitions :
    (State.resetWith 4).led.mode = .off ∧ lit.led.mode = .on ∧ (armed.led.mode = .blink ∧ armed.led.fresh = true)
    ∧ (blinking.led.mode = .blink ∧ blinking.led.fresh = false) ∧ pulsing.led.mode = .pulse := by decide

/-- Each mode, with the invariant; and the toggle of a dark blink. -/
theorem witness_LedModeTable :
    (LedInv lit.led ∧ lit.led.mode = .on ∧ ∃ t, exec .ledToggle lit = .next t)
    ∧ (LedInv LedState.reset ∧ LedState.reset.mode = .off ∧ ∃ t, exec .ledToggle (State.resetWith 4) = .next t)
    ∧ (LedInv pulsing.led ∧ pulsing.led.mode = .pulse ∧ ∃ t, exec .ledRun pulsing = .next t)
    ∧ (LedInv blinking.led ∧ blinking.led.mode = .blink ∧ blinking.led.level = true ∧ ∃ t, exec .ledToggle blinking = .next t)
    ∧ (LedInv armed.led ∧ armed.led.mode = .blink ∧ armed.led.level = false ∧ ∃ t, exec .ledToggle armed = .next t) := by
  unfold LedInv
  exact ⟨⟨by decide, rfl, _, rfl⟩, ⟨by decide, rfl, _, rfl⟩, ⟨by decide, rfl, _, rfl⟩, ⟨by decide, rfl, rfl, _, rfl⟩,
    by decide, rfl, rfl, _, rfl⟩

/-- A pulse of 100 ms issued at 0: a run at 60, the run that ends it at exactly 100, a query after it. -/
def pulseInputs : List StepInput := [fAt 60 0x1600000000, fAt 100 0x1600000000, fAt 101 0x1700000000]

/-- The state after the command. -/
def pulseStarted : State :=
  { fed 4 pulseInputs with
    led := { LedState.reset with mode := .pulse, level := true }, resp := some { status := .ok, data := 0, frame := 0 } }

theorem witness_PulseTiming :
    exec (.ledPulse true) (fed 4 pulseInputs) = .next pulseStarted
    ∧ pulseStarted.inputs = [fAt 60 0x1600000000] ++ fAt 100 0x1600000000 :: ([fAt 101 0x1700000000] ++ [])
    ∧ allSamples (fun x now => ledQuiet x && !(isLedRun x && elapsedAtLeast pulseStarted.led.pulseDur (millisOf 0) now))
        pulseStarted.tUs [fAt 60 0x1600000000] = true
    ∧ isLedRun (fAt 100 0x1600000000) = true
    ∧ elapsedAtLeast pulseStarted.led.pulseDur (millisOf 0)
        (millisOf (clockSample (clockAfter pulseStarted.tUs [fAt 60 0x1600000000]) (fAt 100 0x1600000000).tUs)) = true
    ∧ allSamples (fun x _ => ledQuiet x)
        (clockSample (clockAfter pulseStarted.tUs [fAt 60 0x1600000000]) (fAt 100 0x1600000000).tUs) [fAt 101 0x1700000000] = true :=
  ⟨rfl, rfl, by decide, by decide, by decide, by decide⟩

/-- The first run after a BLINK, with a query before it; a blink that is not due at 1499 and due at exactly 1500 ms. -/
theorem witness_BlinkTiming :
    (let s := { armed with inputs := [fAt 999 0x1700000000] ++ fAt 1000 0x1600000000 :: [] };
      s.led.mode = .blink ∧ isLedRun (fAt 1000 0x1600000000) = true ∧ s.led.fresh = true
      ∧ (∃ t, runSteps 2 s = .next t)
      ∧ allSamples (fun x _ => ledQuiet x && !isLedRun x) s.tUs [fAt 999 0x1700000000] = true)
    ∧ (let s := { blinking with inputs := [fAt 1499 0x1600000000] ++ fAt 1500 0x1600000000 :: [] };
      s.led.mode = .blink ∧ isLedRun (fAt 1500 0x1600000000) = true ∧ s.led.fresh = false
      ∧ (∃ t, runSteps 2 s = .next t)
      ∧ allSamples (fun x now => ledQuiet x && !(isLedRun x && elapsedAtLeast s.led.halfPeriod s.led.phaseStart now)) s.tUs
          [fAt 1499 0x1600000000] = true
      ∧ elapsedAtLeast s.led.halfPeriod s.led.phaseStart
          (millisOf (clockSample (clockAfter s.tUs [fAt 1499 0x1600000000]) (fAt 1500 0x1600000000).tUs)) = true) :=
  ⟨⟨rfl, by decide, rfl, ⟨_, rfl⟩, by decide⟩, rfl, by decide, rfl, ⟨_, rfl⟩, by decide, by decide⟩

theorem witness_LedRegistersHaveTheirWriters :
    ((∃ t, exec .ledRun blinking = .next t) ∧ Instr.ledRun ≠ .ledSetpin ∧ Instr.ledRun ≠ .ledBlink
      ∧ (∀ b, Instr.ledRun ≠ .ledPulse b) ∧ (∀ ms, Instr.ledRun ≠ .ledSetshort ms) ∧ (∀ ms, Instr.ledRun ≠ .ledSetlong ms)
      ∧ (∀ ms, Instr.ledRun ≠ .ledSethalf ms) ∧ blinking.led.mode ≠ .pulse)
    ∧ ((∃ t, exec .swRun blinking = .next t) ∧ Instr.swRun ≠ .ledRun ∧ unitOf .swRun ≠ 1)
    ∧ ((∃ t, exec .ledRun pulsing = .next t) ∧ pulsing.led.mode ≠ .blink)
    ∧ (∃ t, exec (.ledSetshort 0) armed = .next t) ∧ (∃ t, exec .ledGetstate armed = .next t) :=
  ⟨⟨⟨_, rfl⟩, (nomatch ·), (nomatch ·), fun _ h => (nomatch h), fun _ h => (nomatch h), fun _ h => (nomatch h),
    fun _ h => (nomatch h), by decide⟩, ⟨⟨_, rfl⟩, (nomatch ·), by decide⟩, ⟨⟨_, rfl⟩, by decide⟩, ⟨_, rfl⟩, _, rfl⟩

theorem witness_OutputsFollowRegisters :
    (∃ t, exec .ledSetpin lit = .next t) ∧ ∃ t, exec (.swSetpin true) pressed = .next t := ⟨⟨_, rfl⟩, _, rfl⟩

/-- An equal sample; a first differing sample, not yet debounced; a flip at exactly the debounce time. -/
theorem witness_SwRunDebounces :
    (xor ({ pressing with pinSw := true } : State).pinSw pressing.sw.activeHigh = pressing.sw.stable)
    ∧ (xor (at' 4 10).pinSw (at' 4 10).sw.activeHigh ≠ (at' 4 10).sw.stable ∧ (at' 4 10).sw.raw = (at' 4 10).sw.stable
      ∧ elapsedAtLeast (at' 4 10).sw.debounceMs (millisOf (at' 4 10).tUs) (millisOf (at' 4 10).tUs) = false)
    ∧ (xor pressing.pinSw pressing.sw.activeHigh ≠ pressing.sw.stable ∧ pressing.sw.raw ≠ pressing.sw.stable
      ∧ elapsedAtLeast pressing.sw.debounceMs pressing.sw.mismatchStart (millisOf pressing.tUs) = true) := by decide

/-- The pin high: nothing differs; the pin low with a debounce time of 0 and of 20; runs at 0, 10 and exactly 20 ms (S4). -/
theorem witness_DebounceGuarantee :
    (let s := fed 4 [{ fAt 5 0x2100000000 with pinSw := true }];
      s.sw.raw = s.sw.stable ∧ (∃ t, step s = .next t) ∧ isSwRun { fAt 5 0x2100000000 with pinSw := true } = true
      ∧ differingRun s.sw { fAt 5 0x2100000000 with pinSw := true } = false)
    ∧ (let s := { fed 4 [fAt 5 0x2100000000] with sw := { SwState.reset with debounceMs := 0 } };
      s.sw.raw = s.sw.stable ∧ (∃ t, step s = .next t) ∧ isSwRun (fAt 5 0x2100000000) = true
      ∧ differingRun s.sw (fAt 5 0x2100000000) = true)
    ∧ (let s := fed 4 (fAt 0 0x2100000000 :: ([fAt 10 0x2100000000] ++ fAt 20 0x2100000000 :: []));
      s.sw.raw = s.sw.stable ∧ s.sw.debounceMs ≠ 0 ∧ differingRun s.sw (fAt 0 0x2100000000) = true
      ∧ differingRun s.sw (fAt 20 0x2100000000) = true
      ∧ allSamples (fun x now => swQuiet x || (differingRun s.sw x
          && !elapsedAtLeast s.sw.debounceMs (millisOf (clockSample s.tUs (fAt 0 0x2100000000).tUs)) now))
          (clockSample s.tUs (fAt 0 0x2100000000).tUs) [fAt 10 0x2100000000] = true
      ∧ ∃ t, runSteps 3 s = .next t ∧ t.sw.stable = false) :=
  ⟨⟨rfl, ⟨_, rfl⟩, by decide, by decide⟩, ⟨rfl, ⟨_, rfl⟩, by decide, by decide⟩, rfl, by decide, by decide, by decide, by decide, _, rfl,
    by decide⟩

/-- A flip that sets the flag, and a STATECHANGED that clears it. -/
theorem witness_ChangedFlagReportsFlips :
    (let s := { pressing with inputs := [fAt 20 0x2100000000] };
      ∃ t, step s = .next t ∧ s.sw.changed = false ∧ t.sw.changed = true ∧ t.sw.stable ≠ s.sw.stable
        ∧ ∀ e rest, s.inputs = e :: rest → e.rst = false)
    ∧ (let s := { pressed with inputs := [fAt 130 0x2400000000] };
      ∃ t, step s = .next t ∧ s.sw.changed = true ∧ t.sw.changed = false) :=
  ⟨⟨_, rfl, rfl, by decide, by decide, fun _ _ h => (by cases h; rfl)⟩, _, rfl, rfl, rfl⟩

/-- A flip, and a run that flips nothing. -/
theorem witness_FlipRecordsDurations :
    (let s := { pressing with inputs := [fAt 20 0x2100000000] };
      ∃ t, step s = .next t ∧ t.sw.stable ≠ s.sw.stable ∧ ∀ e rest, s.inputs = e :: rest → e.rst = false)
    ∧ (let s := { pressed with inputs := [fAt 130 0x2100000000] };
      ∃ t, step s = .next t ∧ t.sw.stable = s.sw.stable ∧ ∀ e rest, s.inputs = e :: rest → e.rst = false) :=
  ⟨⟨_, rfl, by decide, fun _ _ h => (by cases h; rfl)⟩, _, rfl, by decide, fun _ _ h => (by cases h; rfl)⟩

theorem witness_SwRegistersHaveTheirWriters :
    (∃ t, exec .swLastduration pressed = .next t) ∧ Instr.swLastduration ≠ .swRun ∧ Instr.swLastduration ≠ .swStatechanged
    ∧ Instr.swLastduration ≠ .swResetduration ∧ (∀ b, Instr.swLastduration ≠ .swSetpin b)
    ∧ (∀ ms, Instr.swLastduration ≠ .swSetdebounce ms) ∧ (∃ t, exec .ledOn pressed = .next t) ∧ unitOf .ledOn ≠ 2 :=
  ⟨⟨_, rfl⟩, (nomatch ·), (nomatch ·), (nomatch ·), fun _ h => (nomatch h), fun _ h => (nomatch h), ⟨_, rfl⟩, by decide⟩

theorem witness_PutCommutesWithLedAndSw :
    unitOf .ledRun ≠ 0 ∧ (∃ t, exec .ledRun full2 = .next t) ∧ ∃ t, exec (.ringPut fr8) full2 = .next t :=
  ⟨by decide, ⟨_, rfl⟩, _, rfl⟩

theorem witness_OnlyListedOperationsReadClock :
    readsClock .ringGet = false ∧ readsClock (.ledSetshort 0) = false ∧ ∃ t, exec .ledRun full2 = .next t := ⟨rfl, rfl, _, rfl⟩

theorem witness_OnlySwRunReadsPin : Instr.swGetstate ≠ .swRun ∧ Instr.ledRun ≠ .swRun := by decide

end Sys2Proof.Tests
end

namespace Sys2Proof.Machine

/-! ## What an operation leaves in the registers

One function per unit gives the registers after an operation that answers; `exec_registers` ties the three to the dispatcher. Every
statement about registers below goes through them. -/

/-- The registers of RING after an operation (R100 to R113, R116). -/
def ringAfter (capacity : Index) (now : Word64) (i : Instr) (r : RingState) : RingState :=
  match i with
  | .ringPut f =>
    if capacity = 0 then ringAfterLostPut r
    else ringAfterPut capacity { r with cells := Memory.write r.cells r.head.toNat { frame := f, stamp := now } }
  | .ringGet => if capacity = 0 ∨ r.size = 0 then r else ringAfterGet capacity r
  | .ringClear => ringAfterClear r
  | _ => r

/-- The registers of LED after an operation (R130 to R140). -/
def ledAfter (now : Word32) (i : Instr) (l : LedState) : LedState :=
  match i with
  | .ledSetpin => { l with oe := true, level := false, mode := .off, fresh := false }
  | .ledOn => { l with mode := .on, level := true, fresh := false }
  | .ledOff => { l with mode := .off, level := false, fresh := false }
  | .ledToggle => { l with level := !l.level, mode := modeOfLevel (!l.level), fresh := false }
  | .ledBlink => { l with mode := .blink, fresh := true, halfPeriod := l.cfgHalf }
  | .ledPulse short =>
    { l with mode := .pulse, level := true, fresh := false, pulseStart := now, pulseDur := if short then l.cfgShort else l.cfgLong }
  | .ledRun => ledAfterRun l now
  | .ledSetshort ms => { l with cfgShort := ms }
  | .ledSetlong ms => { l with cfgLong := ms }
  | .ledSethalf ms => { l with cfgHalf := ms }
  | _ => l

/-- The registers of SW after an operation (R160 to R169). -/
def swAfter (pin : Bool) (now : Word32) (i : Instr) (w : SwState) : SwState :=
  match i with
  | .swSetpin pol => { w with activeHigh := pol, cfgd := true }
  | .swRun => swAfterRun w (normalise pin w.activeHigh) now
  | .swStatechanged => { w with changed := false }
  | .swResetduration => { w with currentStateStart := now }
  | .swSetdebounce ms => { w with debounceMs := ms }
  | _ => w

/-! The four cases in which RING changes, and the one in which it does not. -/

theorem ringAfter_put_of_zero {capacity : Index} (now : Word64) (f : Frame) (r : RingState) (h : capacity = 0) :
    ringAfter capacity now (.ringPut f) r = ringAfterLostPut r := if_pos h

theorem ringAfter_put_of_ne {capacity : Index} (now : Word64) (f : Frame) (r : RingState) (h : capacity ≠ 0) :
    ringAfter capacity now (.ringPut f) r =
      ringAfterPut capacity { r with cells := Memory.write r.cells r.head.toNat { frame := f, stamp := now } } := if_neg h

theorem ringAfter_get_of_none {capacity : Index} (now : Word64) {r : RingState} (h : capacity = 0 ∨ r.size = 0) :
    ringAfter capacity now .ringGet r = r := if_pos h

theorem ringAfter_get_of_some {capacity : Index} (now : Word64) {r : RingState} (h : ¬ (capacity = 0 ∨ r.size = 0)) :
    ringAfter capacity now .ringGet r = ringAfterGet capacity r := if_neg h

theorem ringAfter_of_reader {capacity : Index} (now : Word64) {i : Instr} (r : RingState) (hput : ∀ f, i ≠ .ringPut f)
    (hget : i ≠ .ringGet) (hclear : i ≠ .ringClear) : ringAfter capacity now i r = r := by
  cases i with
  | ringPut f => exact absurd rfl (hput f)
  | ringGet => exact absurd rfl hget
  | ringClear => exact absurd rfl hclear
  | _ => rfl

/-- Everything an operation does to CAPACITY and the registers when it answers. -/
theorem exec_registers {i : Instr} {s t : State} (h : exec i s = .next t) :
    t.capacity = s.capacity ∧ t.ring = ringAfter s.capacity s.tUs i s.ring ∧ t.led = ledAfter s.nowMillis i s.led
      ∧ t.sw = swAfter s.pinSw s.nowMillis i s.sw := by
  cases i with
  | ringPut f =>
    obtain ⟨-, ⟨h0, rfl⟩ | ⟨h0, -, rfl⟩⟩ := execRingPut_cases h
    · exact ⟨rfl, (ringAfter_put_of_zero _ f _ h0).symm, rfl, rfl⟩
    · exact ⟨rfl, (ringAfter_put_of_ne _ f _ h0).symm, rfl, rfl⟩
  | ringPeek =>
    obtain ⟨-, rfl⟩ | ⟨-, -, rfl⟩ := execRingPeek_cases h <;> exact ⟨rfl, rfl, rfl, rfl⟩
  | ringGet =>
    obtain ⟨hn, rfl⟩ | ⟨hn, -, rfl⟩ := execRingGet_cases h
    · exact ⟨rfl, (ringAfter_get_of_none _ (s.ringHasNone_iff.1 hn)).symm, rfl, rfl⟩
    · have hsome : ¬ (s.capacity = 0 ∨ s.ring.size = 0) := fun h' => by simp [s.ringHasNone_iff.2 h'] at hn
      exact ⟨rfl, (ringAfter_get_of_some _ hsome).symm, rfl, rfl⟩
  | ringInserttime =>
    obtain ⟨-, rfl⟩ | ⟨-, -, rfl⟩ := execRingInserttime_cases h <;> exact ⟨rfl, rfl, rfl, rfl⟩
  | _ => cases h; exact ⟨rfl, rfl, rfl, rfl⟩

theorem exec_capacity {i : Instr} {s t : State} (h : exec i s = .next t) : t.capacity = s.capacity := by
  obtain ⟨hcap, -⟩ := exec_registers h; exact hcap

theorem exec_ring {i : Instr} {s t : State} (h : exec i s = .next t) :
    t.ring = ringAfter s.capacity s.tUs i s.ring := by
  obtain ⟨-, hring, -⟩ := exec_registers h; exact hring

theorem exec_led {i : Instr} {s t : State} (h : exec i s = .next t) : t.led = ledAfter s.nowMillis i s.led := by
  obtain ⟨-, -, hled, -⟩ := exec_registers h; exact hled

theorem exec_sw {i : Instr} {s t : State} (h : exec i s = .next t) : t.sw = swAfter s.pinSw s.nowMillis i s.sw := by
  obtain ⟨-, -, -, hsw⟩ := exec_registers h; exact hsw

/-! ## A ring with cells as an interval of the array -/

/-- `RingInvPos` with R21's items on `size`, `full` and `head` said by one equation: `head` is `size` cells after `tail`. -/
structure RingShape (capacity : Index) (r : RingState) : Prop where
  tail_lt : r.tail.toNat < capacity.toNat
  size_le : r.size.toNat ≤ capacity.toNat
  head_eq : r.head.toNat = (r.tail.toNat + r.size.toNat) % capacity.toNat
  full_iff : r.full = true ↔ r.size.toNat = capacity.toNat
  size_le_highWater : r.size.toNat ≤ r.highWater.toNat
  highWater_le : r.highWater.toNat ≤ capacity.toNat
  cells_wf : Memory.wf r.cells = true
  cells_lt : ∀ c ∈ r.cells, c.1 < capacity.toNat
  occupied : ∀ k < r.size.toNat, (Memory.lookup r.cells ((r.tail.toNat + k) % capacity.toNat)).isSome = true

/-- An index advanced by at most one round wraps at most once. -/
theorem add_mod_of_le {c t n : Nat} (ht : t < c) (hn : n ≤ c) : (t + n) % c = if t + n < c then t + n else t + n - c := by
  split
  · exact Nat.mod_eq_of_lt ‹_›
  · rw [Nat.mod_eq_sub_mod (by omega), Nat.mod_eq_of_lt (by omega)]

/-- The distance from `t` up to `h` on a circle of `c` places. -/
theorem sub_mod_of_lt {c h t : Nat} (hh : h < c) (ht : t < c) : (h + c - t) % c = if t ≤ h then h - t else h + c - t := by
  split
  · rw [Nat.mod_eq_sub_mod (by omega), Nat.mod_eq_of_lt (by omega)]; omega
  · exact Nat.mod_eq_of_lt (by omega)

/-- `SizeOf` counts the cells from `tail` to `head`. -/
theorem sizeOf_of_head {capacity head tail : Index} {full : Bool} {n : Nat} (ht : tail.toNat < capacity.toNat)
    (hn : n ≤ capacity.toNat) (hh : head.toNat = (tail.toNat + n) % capacity.toNat)
    (hf : full = true ↔ n = capacity.toNat) : (sizeOf capacity full head tail).toNat = n := by
  rw [add_mod_of_le ht hn] at hh
  have hlt : head.toNat < capacity.toNat := by split at hh <;> omega
  rw [sizeOf_toNat capacity full head tail hlt ht]
  cases full with
  | true => exact (hf.1 rfl).symm
  | false =>
    have : n ≠ capacity.toNat := fun h => Bool.false_ne_true (hf.2 h)
    simp only [Bool.false_eq_true, if_false]
    split at hh <;> split <;> omega

/-- The head stands on the tail if no cell or every cell is occupied. -/
theorem add_mod_eq_self_iff {c t n : Nat} (ht : t < c) (hn : n ≤ c) : (t + n) % c = t ↔ n = 0 ∨ n = c := by
  rw [add_mod_of_le ht hn]
  split <;> omega

/-- R21 items 1 to 5 place the head `size` cells after the tail. -/
theorem RingInvPos.shape {capacity : Index} {r : RingState} (h : RingInvPos capacity r) : RingShape capacity r := by
  obtain ⟨hhead, htail, hle, hsize, hfull, hmeet, -, hhw, hhwc, hwf, hlt, hocc⟩ := h
  have hsc : r.size = capacity ↔ r.size.toNat = capacity.toNat := BitVec.toNat_inj.symm
  refine ⟨htail, hle, ?_, hfull.trans hsc, hhw, hhwc, hwf, hlt, hocc⟩
  rw [add_mod_of_le htail hle]
  cases hf : r.full with
  | true =>
    have := congrArg BitVec.toNat (hmeet hf)
    have := hsc.1 (hfull.1 hf)
    split <;> omega
  | false =>
    simp only [hf, Bool.false_eq_true, if_false, sub_mod_of_lt hhead htail] at hsize
    split at hsize <;> split <;> omega

/-- The place of the head gives R21 items 1 to 5 back. -/
theorem RingShape.invPos {capacity : Index} {r : RingState} (h : RingShape capacity r) : RingInvPos capacity r := by
  obtain ⟨htail, hle, hhead, hfull, hhw, hhwc, hwf, hlt, hocc⟩ := h
  have hpos : 0 < capacity.toNat := by omega
  have hsc : r.size = capacity ↔ r.size.toNat = capacity.toNat := BitVec.toNat_inj.symm
  have hs0 : r.size = 0 ↔ r.size.toNat = 0 := BitVec.toNat_inj.symm
  have hht : r.head = r.tail ↔ r.size.toNat = 0 ∨ r.size.toNat = capacity.toNat := by
    rw [← BitVec.toNat_inj, hhead, add_mod_eq_self_iff htail hle]
  have hnfull : r.full = false ↔ r.size.toNat ≠ capacity.toNat := by rw [ne_eq, ← hfull, Bool.not_eq_true]
  refine ⟨hhead ▸ Nat.mod_lt _ hpos, htail, hle, ?_, hfull.trans hsc.symm, fun hf => hht.2 (.inr (hfull.1 hf)), ?_, hhw, hhwc,
    hwf, hlt, hocc⟩
  · have hlth : r.head.toNat < capacity.toNat := hhead ▸ Nat.mod_lt _ hpos
    rw [sub_mod_of_lt hlth htail]
    rw [add_mod_of_le htail hle] at hhead
    split
    · exact hfull.1 ‹_›
    · have := mt hfull.2 ‹_›
      split at hhead <;> split <;> omega
  · rw [hs0, hht, hnfull]
    omega

/-! ## What put, get and clear do to the interval -/

section

variable (capacity : Index) (r : RingState)

@[simp] theorem ringAfterPut_cells : (ringAfterPut capacity r).cells = r.cells := rfl
@[simp] theorem ringAfterPut_head : (ringAfterPut capacity r).head = advance capacity r.head := rfl
@[simp] theorem ringAfterPut_tail : (ringAfterPut capacity r).tail = if r.full then advance capacity r.tail else r.tail := rfl
@[simp] theorem ringAfterPut_full :
    (ringAfterPut capacity r).full = decide ((ringAfterPut capacity r).head = (ringAfterPut capacity r).tail) := rfl
@[simp] theorem ringAfterPut_highWater :
    (ringAfterPut capacity r).highWater = maxIndex r.highWater (ringAfterPut capacity r).size := rfl
@[simp] theorem ringAfterPut_overflows :
    (ringAfterPut capacity r).overflows = if r.full then r.overflows + 1 else r.overflows := rfl

@[simp] theorem ringAfterGet_tail : (ringAfterGet capacity r).tail = advance capacity r.tail := rfl

end

section

variable {capacity : Index} {r : RingState}

theorem RingShape.capacity_ne_zero (h : RingShape capacity r) : capacity ≠ 0 := by
  rintro rfl
  exact absurd h.tail_lt (Nat.not_lt_zero _)

theorem RingShape.head_lt (h : RingShape capacity r) : r.head.toNat < capacity.toNat :=
  h.head_eq ▸ Nat.mod_lt _ (Nat.zero_lt_of_lt h.tail_lt)

/-- Storing into the cell at `head` keeps the shape: the registers do not move. -/
theorem RingShape.store (h : RingShape capacity r) (c : TimedFrame) :
    RingShape capacity { r with cells := Memory.write r.cells r.head.toNat c } where
  tail_lt := h.tail_lt
  size_le := h.size_le
  head_eq := h.head_eq
  full_iff := h.full_iff
  size_le_highWater := h.size_le_highWater
  highWater_le := h.highWater_le
  cells_wf := Memory.wf_write _ _ _ h.cells_wf
  cells_lt p hp := by
    rcases Memory.mem_write _ _ _ _ hp with rfl | hp
    · exact h.head_lt
    · exact h.cells_lt p hp
  occupied k hk := by
    rw [Memory.lookup_write]
    split
    · rfl
    · exact h.occupied k hk

/-- The tail a put leaves, and how many cells lie between it and the head: one more, or all of them with the oldest given up. -/
theorem RingShape.put_interval (h : RingShape capacity r) {n : Nat}
    (hn : n = if r.full then capacity.toNat else r.size.toNat + 1) :
    (ringAfterPut capacity r).tail.toNat < capacity.toNat ∧ n ≤ capacity.toNat
      ∧ (ringAfterPut capacity r).head.toNat = ((ringAfterPut capacity r).tail.toNat + n) % capacity.toNat
      ∧ ((ringAfterPut capacity r).full = true ↔ n = capacity.toNat) := by
  have hc := h.capacity_ne_zero
  have hpos : 0 < capacity.toNat := Nat.zero_lt_of_lt h.tail_lt
  have hbounds : (ringAfterPut capacity r).tail.toNat < capacity.toNat ∧ 0 < n ∧ n ≤ capacity.toNat
      ∧ (ringAfterPut capacity r).head.toNat = ((ringAfterPut capacity r).tail.toNat + n) % capacity.toNat := by
    rw [ringAfterPut_head, ringAfterPut_tail, advance_toNat _ _ hc, h.head_eq, Nat.mod_add_mod]
    cases hf : r.full with
    | true =>
      have hsize := h.full_iff.1 hf
      simp only [hf, if_true] at hn ⊢
      rw [advance_toNat _ _ hc, hn, hsize]
      refine ⟨Nat.mod_lt _ hpos, hpos, le_rfl, ?_⟩
      rw [Nat.add_mod_right, Nat.mod_mod, Nat.add_right_comm, Nat.add_mod_right]
    | false =>
      have hsize : r.size.toNat ≠ capacity.toNat := mt h.full_iff.2 (by simp [hf])
      have hle := h.size_le
      simp only [hf, Bool.false_eq_true, if_false] at hn ⊢
      exact ⟨h.tail_lt, by omega, by omega, by rw [hn, Nat.add_assoc]⟩
  obtain ⟨htail, hn0, hnc, hhead⟩ := hbounds
  refine ⟨htail, hnc, hhead, ?_⟩
  rw [ringAfterPut_full, decide_eq_true_iff, ← BitVec.toNat_inj, hhead, add_mod_eq_self_iff htail hnc]
  omega

/-- A put into a ring with room adds one unread frame; into a full one, none. -/
theorem RingShape.put_size (h : RingShape capacity r) :
    (ringAfterPut capacity r).size.toNat = if r.full then capacity.toNat else r.size.toNat + 1 := by
  obtain ⟨htail, hn, hhead, hfull⟩ := h.put_interval rfl
  exact sizeOf_of_head htail hn hhead hfull

/-- Advancing over a cell that is stored keeps the shape. -/
theorem RingShape.put (h : RingShape capacity r) (hcell : (Memory.lookup r.cells r.head.toNat).isSome = true) :
    RingShape capacity (ringAfterPut capacity r) := by
  obtain ⟨htail, hn, hhead, hfull⟩ := h.put_interval rfl
  have hhw := h.highWater_le
  rw [← h.put_size] at hn hhead hfull
  refine ⟨htail, hn, hhead, hfull, ?_, ?_, h.cells_wf, h.cells_lt, fun k hk => ?_⟩
  · rw [ringAfterPut_highWater, maxIndex_toNat]; omega
  · rw [ringAfterPut_highWater, maxIndex_toNat]; omega
  · have hlisted : ∀ j ≤ r.size.toNat, (Memory.lookup r.cells ((r.tail.toNat + j) % capacity.toNat)).isSome = true := by
      intro j hj
      rcases hj.lt_or_eq with hlt | rfl
      · exact h.occupied j hlt
      · exact h.head_eq ▸ hcell
    rw [h.put_size] at hk
    rw [ringAfterPut_cells, ringAfterPut_tail]
    cases hf : r.full with
    | true =>
      have hsize := h.full_iff.1 hf
      simp only [hf, if_true] at hk ⊢
      rw [advance_toNat _ _ h.capacity_ne_zero, Nat.mod_add_mod, Nat.add_assoc, Nat.add_comm 1]
      exact hlisted (k + 1) (by omega)
    | false =>
      simp only [hf, Bool.false_eq_true, if_false] at hk ⊢
      exact hlisted k (by omega)

/-- A get takes one unread frame. -/
theorem RingShape.get_interval (h : RingShape capacity r) (hs : r.size ≠ 0) :
    (ringAfterGet capacity r).tail.toNat < capacity.toNat ∧ r.size.toNat - 1 ≤ capacity.toNat
      ∧ r.head.toNat = ((ringAfterGet capacity r).tail.toNat + (r.size.toNat - 1)) % capacity.toNat
      ∧ (false = true ↔ r.size.toNat - 1 = capacity.toNat) := by
  have hs0 : r.size.toNat ≠ 0 := fun h0 => hs (BitVec.toNat_inj.1 h0)
  have hle := h.size_le
  rw [ringAfterGet_tail, advance_toNat _ _ h.capacity_ne_zero, Nat.mod_add_mod, h.head_eq]
  refine ⟨Nat.mod_lt _ (by omega), by omega, by congr 1; omega, by simp; omega⟩

theorem RingShape.get_size (h : RingShape capacity r) (hs : r.size ≠ 0) :
    (ringAfterGet capacity r).size.toNat = r.size.toNat - 1 := by
  obtain ⟨htail, hn, hhead, hfull⟩ := h.get_interval hs
  exact sizeOf_of_head htail hn hhead hfull

theorem RingShape.get (h : RingShape capacity r) (hs : r.size ≠ 0) : RingShape capacity (ringAfterGet capacity r) := by
  obtain ⟨htail, hn, hhead, hfull⟩ := h.get_interval hs
  have hsize := h.get_size hs
  have hhw := h.size_le_highWater
  rw [← hsize] at hn hhead hfull
  refine ⟨htail, hn, hhead, hfull, ?_, h.highWater_le, h.cells_wf, h.cells_lt, fun k hk => ?_⟩
  · exact le_trans (hsize ▸ Nat.sub_le _ _) hhw
  · rw [ringAfterGet_tail, advance_toNat _ _ h.capacity_ne_zero, Nat.mod_add_mod, Nat.add_assoc, Nat.add_comm 1]
    exact h.occupied (k + 1) (by omega)

theorem RingShape.clear (h : RingShape capacity r) : RingShape capacity (ringAfterClear r) where
  tail_lt := Nat.zero_lt_of_lt h.tail_lt
  size_le := Nat.zero_le _
  head_eq := (Nat.zero_mod _).symm
  full_iff := by simpa [ringAfterClear] using (Nat.zero_lt_of_lt h.tail_lt).ne
  size_le_highWater := Nat.zero_le _
  highWater_le := h.highWater_le
  cells_wf := h.cells_wf
  cells_lt := h.cells_lt
  occupied k hk := absurd hk (Nat.not_lt_zero k)

end

/-! ## The block invariant -/

/-- A put into a ring with cells, as the dispatcher makes it: the frame is stored at `head`, then the registers move. -/
theorem RingShape.storeAndPut {capacity : Index} {r : RingState} (h : RingShape capacity r) (c : TimedFrame) :
    RingShape capacity (ringAfterPut capacity { r with cells := Memory.write r.cells r.head.toNat c }) :=
  (h.store c).put (by simp [Memory.lookup_write])

/-- What R116 says of a ring without cells: no operation moves anything but the counters of the lost put. -/
theorem RingInvZero.preserved {r : RingState} (h : RingInvZero r) (now : Word64) (i : Instr) :
    RingInvZero (ringAfter 0 now i r) := by
  cases i with
  | ringPut f => rw [ringAfter_put_of_zero now f r rfl]; exact h
  | ringGet => rw [ringAfter_get_of_none now (.inl rfl)]; exact h
  | ringClear =>
    obtain ⟨hcells, -, -, -, -, hhw, hgets⟩ := h
    exact ⟨hcells, rfl, rfl, rfl, rfl, hhw, hgets⟩
  | _ => exact h

theorem RingShape.preserved {capacity : Index} {r : RingState} (h : RingShape capacity r) (now : Word64) (i : Instr) :
    RingShape capacity (ringAfter capacity now i r) := by
  cases i with
  | ringPut f => rw [ringAfter_put_of_ne now f r h.capacity_ne_zero]; exact h.storeAndPut _
  | ringGet =>
    by_cases hnone : capacity = 0 ∨ r.size = 0
    · rw [ringAfter_get_of_none now hnone]; exact h
    · rw [ringAfter_get_of_some now hnone]; exact h.get fun h0 => hnone (.inr h0)
  | ringClear => exact h.clear
  | _ => exact h

theorem RingInv.preserved {capacity : Index} {r : RingState} (h : RingInv capacity r) (now : Word64) (i : Instr) :
    RingInv capacity (ringAfter capacity now i r) :=
  ⟨fun h0 => by subst h0; exact (h.1 rfl).preserved now i, fun hc => ((h.2 hc).shape.preserved now i).invPos⟩

/-- Everything a run can do to the registers of LED (R136): nothing, light a fresh blink, invert a due one, end a due pulse. -/
theorem ledAfterRun_cases (l : LedState) (now : Word32) :
    ledAfterRun l now = l ∨
    (l.mode = .blink ∧ l.fresh = true ∧ ledAfterRun l now = { l with level := true, phaseStart := now, fresh := false }) ∨
    (l.mode = .blink ∧ l.fresh = false ∧ blinkElapsed l now = true ∧
      ledAfterRun l now = { l with level := !l.level, phaseStart := now }) ∨
    (l.mode = .pulse ∧ pulseElapsed l now = true ∧ ledAfterRun l now = { l with level := false, mode := .off }) := by
  unfold ledAfterRun
  split
  next => exact .inl rfl
  next => exact .inl rfl
  next hm =>
    unfold ledAfterBlinkRun
    by_cases hfresh : l.fresh = true
    · exact .inr (.inl ⟨hm, hfresh, if_pos hfresh⟩)
    · rw [if_neg hfresh]
      by_cases hdue : blinkElapsed l now = true
      · exact .inr (.inr (.inl ⟨hm, Bool.eq_false_of_not_eq_true hfresh, hdue, if_pos hdue⟩))
      · exact .inl (if_neg hdue)
  next hm =>
    unfold ledAfterPulseRun
    by_cases hdue : pulseElapsed l now = true
    · exact .inr (.inr (.inr ⟨hm, hdue, if_pos hdue⟩))
    · exact .inl (if_neg hdue)

theorem LedInv.run_preserved {l : LedState} (h : LedInv l) (now : Word32) : LedInv (ledAfterRun l now) := by
  rcases ledAfterRun_cases l now with hr | ⟨hm, -, hr⟩ | ⟨hm, -, -, hr⟩ | ⟨hm, -, hr⟩ <;> rw [hr]
  · exact h
  · simp [LedInv, hm]
  · simp [LedInv, hm]
  · obtain ⟨-, -, -, hfresh⟩ := h
    simpa [LedInv, hm] using hfresh

theorem LedInv.preserved {l : LedState} (h : LedInv l) (now : Word32) (i : Instr) : LedInv (ledAfter now i l) := by
  cases i with
  | ledRun => exact h.run_preserved now
  | ledToggle => cases hl : l.level <;> simp [LedInv, ledAfter, modeOfLevel, hl]
  | ledSetpin | ledOn | ledOff | ledBlink | ledPulse => simp [LedInv, ledAfter]
  | _ => exact h

theorem exec_keeps_blockInv {i : Instr} {s t : State} (hs : BlockInv s) (h : exec i s = .next t) : BlockInv t := by
  obtain ⟨hringInv, hledInv⟩ := hs
  unfold BlockInv
  rw [exec_capacity h, exec_ring h, exec_led h]
  exact ⟨hringInv.preserved _ _, hledInv.preserved _ _⟩

theorem ringInv_reset (capacity : Index) : RingInv capacity RingState.reset := by
  refine ⟨fun _ => ⟨rfl, rfl, rfl, rfl, rfl, rfl, rfl⟩, fun hc => RingShape.invPos ?_⟩
  have hpos : 0 < capacity.toNat := Nat.pos_of_ne_zero fun h0 => hc (BitVec.toNat_inj.1 h0)
  exact
    { tail_lt := hpos
      size_le := Nat.zero_le _
      head_eq := (Nat.zero_mod _).symm
      full_iff := by simpa [RingState.reset] using hpos.ne
      size_le_highWater := le_rfl
      highWater_le := Nat.zero_le _
      cells_wf := rfl
      cells_lt := fun _ h => nomatch h
      occupied := fun k hk => absurd hk (Nat.not_lt_zero k) }

theorem ledInv_reset : LedInv LedState.reset := by simp [LedInv, LedState.reset]

/-- Settles O20: an empty interval at cell 0, and the LED off. -/
theorem resetSatisfiesInvariant : Obligations.ResetSatisfiesInvariant := by
  unfold Obligations.ResetSatisfiesInvariant
  exact fun c => ⟨ringInv_reset c, ledInv_reset⟩

/-- Settles O21: taking the signals touches no register, a reset restores the reset registers, and the commands of a step are
operations, each of which keeps the invariant, or answer ILLEGAL. -/
theorem stepKeepsBlockInvariant : Obligations.StepKeepsBlockInvariant := by
  unfold Obligations.StepKeepsBlockInvariant
  intro s t hs h
  have hlatched : BlockInv (s.latch s.nextInput.1 s.nextInput.2) := hs
  rcases step_cases h with ⟨-, rfl⟩ | ⟨-, hrun⟩
  · exact ⟨ringInv_reset s.capacity, ledInv_reset⟩
  · exact runCommands_induct (P := BlockInv) (fun _ _ _ => exec_keeps_blockInv) (fun _ hu => hu) _ _ _ hlatched hrun

/-! ## The account of the frames put -/

/-- What an operation can do to the fill level and the three counters: nothing; count a frame that is stored, or one that costs a
frame (the oldest, or without cells itself); count a frame that is got; or discard the unread frames. -/
inductive Accounted (i : Instr) (r r' : RingState) : Prop where
  | kept (hsize : r'.size.toNat = r.size.toNat) (hputs : r'.puts = r.puts) (hgets : r'.gets = r.gets)
      (hover : r'.overflows = r.overflows)
  | stored (hsize : r'.size.toNat = r.size.toNat + 1) (hputs : r'.puts = r.puts + 1) (hgets : r'.gets = r.gets)
      (hover : r'.overflows = r.overflows)
  | overflowed (hsize : r'.size.toNat = r.size.toNat) (hputs : r'.puts = r.puts + 1) (hgets : r'.gets = r.gets)
      (hover : r'.overflows = r.overflows + 1)
  | got (hsize : r'.size.toNat + 1 = r.size.toNat) (hputs : r'.puts = r.puts) (hgets : r'.gets = r.gets + 1)
      (hover : r'.overflows = r.overflows)
  | cleared (hi : i = .ringClear) (hsize : r'.size.toNat = 0) (hputs : r'.puts = r.puts) (hgets : r'.gets = r.gets)
      (hover : r'.overflows = r.overflows)

theorem RingShape.put_accounted {capacity : Index} {r : RingState} (h : RingShape capacity r) (c : TimedFrame) (i : Instr) :
    Accounted i r (ringAfterPut capacity { r with cells := Memory.write r.cells r.head.toNat c }) := by
  have hsize := (h.store c).put_size
  by_cases hf : r.full = true
  · rw [if_pos hf, ← h.full_iff.1 hf] at hsize
    exact .overflowed hsize rfl rfl (if_pos hf)
  · rw [if_neg hf] at hsize
    exact .stored hsize rfl rfl (if_neg hf)

theorem RingShape.get_accounted {capacity : Index} {r : RingState} (h : RingShape capacity r) (hs : r.size ≠ 0) (i : Instr) :
    Accounted i r (ringAfterGet capacity r) := by
  have hpos : 0 < r.size.toNat := Nat.pos_of_ne_zero fun h0 => hs (BitVec.toNat_inj.1 h0)
  have hsize := h.get_size hs
  exact .got (by omega) rfl rfl rfl

theorem RingInv.accounted {capacity : Index} {r : RingState} (h : RingInv capacity r) (now : Word64) (i : Instr) :
    Accounted i r (ringAfter capacity now i r) := by
  cases i with
  | ringPut f =>
    by_cases hc : capacity = 0
    · rw [ringAfter_put_of_zero now f r hc]; exact .overflowed rfl rfl rfl rfl
    · rw [ringAfter_put_of_ne now f r hc]; exact (h.2 hc).shape.put_accounted _ _
  | ringGet =>
    by_cases hnone : capacity = 0 ∨ r.size = 0
    · rw [ringAfter_get_of_none now hnone]; exact .kept rfl rfl rfl rfl
    · obtain ⟨hc, hs⟩ := not_or.1 hnone
      rw [ringAfter_get_of_some now hnone]
      exact (h.2 hc).shape.get_accounted hs .ringGet
  | ringClear => exact .cleared rfl rfl rfl rfl rfl
  | _ => exact .kept rfl rfl rfl rfl

/-- A fill level that grows by one grows by one as a counter: 8 bits do not wrap in 32. -/
theorem setWidth_succ {m n : Index} (h : n.toNat = m.toNat + 1) : n.setWidth 32 = m.setWidth 32 + 1 := by bv_omega

theorem Accounted.countsAgree {i : Instr} {r r' : RingState} (h : Accounted i r r') (hr : CountsAgree r)
    (hclear : i = .ringClear → r.size = 0) : CountsAgree r' := by
  unfold CountsAgree at hr ⊢
  cases h with
  | kept hsize hputs hgets hover => rw [hputs, hgets, hover, BitVec.toNat_inj.1 hsize, hr]
  | stored hsize hputs hgets hover => rw [hputs, hgets, hover, setWidth_succ hsize, ← hr]; ring
  | overflowed hsize hputs hgets hover => rw [hputs, hgets, hover, BitVec.toNat_inj.1 hsize, ← hr]; ring
  | got hsize hputs hgets hover => rw [hputs, hgets, hover, ← hr, setWidth_succ hsize.symm]; ring
  | cleared hi hsize hputs hgets hover =>
    rw [hputs, hgets, hover, ← hr, BitVec.toNat_inj.1 (hsize.trans (congrArg BitVec.toNat (hclear hi)).symm)]

/-- A counter below its wrap counts. -/
theorem Accounted.putsCover {i : Instr} {r r' : RingState} (h : Accounted i r r') (hr : PutsCover r)
    (hwrap : r.puts.toNat + 1 < 2 ^ 32) : PutsCover r' := by
  unfold PutsCover at hr ⊢
  cases h <;> bv_omega

/-- Settles O34, case by case of the account. -/
theorem countersAccountForFrames : Obligations.CountersAccountForFrames := by
  unfold Obligations.CountersAccountForFrames
  intro s t i hs hr h hclear
  rw [exec_ring h]
  exact (hs.1.accounted s.tUs i).countsAgree hr hclear

/-- Settles O35: in each case of the account the puts pay for what is got, lost or unread. -/
theorem putsCoverGets : Obligations.PutsCoverGets := by
  unfold Obligations.PutsCoverGets
  intro s t i hs hr h hwrap
  have hcover : PutsCover t.ring := exec_ring h ▸ (hs.1.accounted s.tUs i).putsCover hr hwrap
  refine ⟨hcover, ?_⟩
  unfold PutsCover at hcover
  omega

/-! ## The writers of the registers of RING -/

/-- A put writes no counter of gets, and with room in the ring neither `tail` nor `overflows`. -/
theorem ringAfter_put_frame (capacity : Index) (now : Word64) (f : Frame) (r : RingState) :
    (ringAfter capacity now (.ringPut f) r).gets = r.gets
      ∧ (capacity ≠ 0 → r.full = false → (ringAfter capacity now (.ringPut f) r).tail = r.tail
        ∧ (ringAfter capacity now (.ringPut f) r).overflows = r.overflows) := by
  by_cases hc : capacity = 0
  · rw [ringAfter_put_of_zero now f r hc]
    exact ⟨rfl, fun h => absurd hc h⟩
  · rw [ringAfter_put_of_ne now f r hc]
    exact ⟨rfl, fun _ hfull => by simp [hfull]⟩

/-- A get writes `tail`, `full`, `size` and `gets` at most. -/
theorem ringAfter_get_frame (capacity : Index) (now : Word64) (r : RingState) :
    ringAfter capacity now .ringGet r =
      { r with
        tail := (ringAfter capacity now .ringGet r).tail, full := (ringAfter capacity now .ringGet r).full
        size := (ringAfter capacity now .ringGet r).size, gets := (ringAfter capacity now .ringGet r).gets } := by
  by_cases hnone : capacity = 0 ∨ r.size = 0
  · rw [ringAfter_get_of_none now hnone]
  · rw [ringAfter_get_of_some now hnone]; rfl

section

variable {capacity : Index} {i : Instr} {r : RingState} (now : Word64)

theorem ringAfter_keeps_of_not_put (hput : ∀ f, i ≠ .ringPut f) :
    (ringAfter capacity now i r).cells = r.cells ∧ (ringAfter capacity now i r).highWater = r.highWater
      ∧ (ringAfter capacity now i r).puts = r.puts ∧ (ringAfter capacity now i r).overflows = r.overflows := by
  cases i with
  | ringPut f => exact absurd rfl (hput f)
  | ringGet => rw [ringAfter_get_frame]; exact ⟨rfl, rfl, rfl, rfl⟩
  | _ => exact ⟨rfl, rfl, rfl, rfl⟩

theorem ringAfter_head (hput : ∀ f, i ≠ .ringPut f) (hclear : i ≠ .ringClear) :
    (ringAfter capacity now i r).head = r.head := by
  by_cases hget : i = .ringGet
  · rw [hget, ringAfter_get_frame]
  · rw [ringAfter_of_reader now r hput hget hclear]

theorem ringAfter_gets (hget : i ≠ .ringGet) : (ringAfter capacity now i r).gets = r.gets := by
  cases i with
  | ringPut f => exact (ringAfter_put_frame capacity now f r).1
  | ringGet => exact absurd rfl hget
  | _ => rfl

/-- Only a put moves the high-water mark, and it takes a maximum. -/
theorem ringAfter_highWater_ge (i : Instr) (r : RingState) :
    r.highWater.toNat ≤ (ringAfter capacity now i r).highWater.toNat := by
  by_cases hput : ∃ f, i = .ringPut f
  · obtain ⟨f, rfl⟩ := hput
    by_cases hc : capacity = 0
    · rw [ringAfter_put_of_zero now f r hc]; exact le_rfl
    · rw [ringAfter_put_of_ne now f r hc, ringAfterPut_highWater, maxIndex_toNat]; exact le_max_left _ _
  · obtain ⟨-, hkept, -⟩ := ringAfter_keeps_of_not_put (capacity := capacity) (r := r) now (not_exists.1 hput)
    rw [hkept]

end

/-- Without a reset in the inputs listed, the next step is none: past the end it is idle. -/
theorem State.nextInput_rst {s : State} (h : ∀ e rest, s.inputs = e :: rest → e.rst = false) : s.nextInput.1.rst = false := by
  unfold State.nextInput
  split
  · rfl
  · exact h _ _ ‹_›

/-- Settles O36, along the commands of the step. -/
theorem highWaterNeverDecreases : Obligations.HighWaterNeverDecreases := by
  unfold Obligations.HighWaterNeverDecreases
  intro s t h hrst
  rcases step_cases h with ⟨hreset, -⟩ | ⟨-, hrun⟩
  · rw [State.nextInput_rst hrst] at hreset
    exact absurd hreset Bool.false_ne_true
  · refine runCommands_induct (P := fun u => s.ring.highWater.toNat ≤ u.ring.highWater.toNat) (fun i u v hu hi => ?_)
      (fun _ hu => hu) _ _ _ ?_ hrun
    · rw [exec_ring hi]
      exact le_trans hu (ringAfter_highWater_ge u.tUs i u.ring)
    · rw [State.latch_ring]

/-- Settles O40, from what the operation leaves in the registers of RING. -/
theorem ringRegistersHaveTheirWriters : Obligations.RingRegistersHaveTheirWriters := by
  unfold Obligations.RingRegistersHaveTheirWriters
  intro s t i h
  rw [exec_ring h]
  refine ⟨ringAfter_keeps_of_not_put _, ringAfter_head _, fun hput hclear hget => ?_, ringAfter_gets _, ?_⟩
  · rw [ringAfter_of_reader _ _ hput hget hclear]
    exact ⟨rfl, rfl, rfl⟩
  · rintro f rfl hfull hc
    exact (ringAfter_put_frame s.capacity s.tUs f s.ring).2 hc hfull

/-! ## The writers of the registers of LED -/

/-- A run writes `mode`, `level`, `fresh` and `phaseStart` at most (R136). -/
theorem ledAfterRun_frame (l : LedState) (now : Word32) :
    ledAfterRun l now =
      { l with
        mode := (ledAfterRun l now).mode, level := (ledAfterRun l now).level, fresh := (ledAfterRun l now).fresh
        phaseStart := (ledAfterRun l now).phaseStart } := by
  rcases ledAfterRun_cases l now with hr | ⟨-, -, hr⟩ | ⟨-, -, -, hr⟩ | ⟨-, -, hr⟩ <;> rw [hr]

/-- A run leaves the mode but to end a pulse. -/
theorem ledAfterRun_mode {l : LedState} (now : Word32) (h : l.mode ≠ .pulse) : (ledAfterRun l now).mode = l.mode := by
  rcases ledAfterRun_cases l now with hr | ⟨-, -, hr⟩ | ⟨-, -, -, hr⟩ | ⟨hm, -, -⟩
  · rw [hr]
  · rw [hr]
  · rw [hr]
  · exact absurd hm h

/-- A run leaves the phase of a blink but in BLINK. -/
theorem ledAfterRun_phase {l : LedState} (now : Word32) (h : l.mode ≠ .blink) :
    (ledAfterRun l now).fresh = l.fresh ∧ (ledAfterRun l now).phaseStart = l.phaseStart := by
  rcases ledAfterRun_cases l now with hr | ⟨hm, -⟩ | ⟨hm, -⟩ | ⟨-, -, hr⟩
  · rw [hr]; exact ⟨rfl, rfl⟩
  · exact absurd hm h
  · exact absurd hm h
  · rw [hr]; exact ⟨rfl, rfl⟩

/-- The registers that one command each writes. -/
theorem ledAfter_writers (now : Word32) (i : Instr) (l : LedState) :
    (i ≠ .ledSetpin → (ledAfter now i l).oe = l.oe)
      ∧ (i ≠ .ledRun → (ledAfter now i l).phaseStart = l.phaseStart)
      ∧ (i ≠ .ledBlink → (ledAfter now i l).halfPeriod = l.halfPeriod)
      ∧ ((∀ b, i ≠ .ledPulse b) → (ledAfter now i l).pulseStart = l.pulseStart ∧ (ledAfter now i l).pulseDur = l.pulseDur)
      ∧ ((∀ ms, i ≠ .ledSetshort ms) → (ledAfter now i l).cfgShort = l.cfgShort)
      ∧ ((∀ ms, i ≠ .ledSetlong ms) → (ledAfter now i l).cfgLong = l.cfgLong)
      ∧ ((∀ ms, i ≠ .ledSethalf ms) → (ledAfter now i l).cfgHalf = l.cfgHalf) := by
  cases i with
  | ledRun =>
    have hrun : ledAfter now .ledRun l = ledAfterRun l now := rfl
    rw [hrun, ledAfterRun_frame]
    exact ⟨fun _ => rfl, fun h => absurd rfl h, fun _ => rfl, fun _ => ⟨rfl, rfl⟩, fun _ => rfl, fun _ => rfl, fun _ => rfl⟩
  | _ => simp [ledAfter]

theorem ledAfter_of_other_unit {i : Instr} (now : Word32) (l : LedState) (h : unitOf i ≠ 1) : ledAfter now i l = l := by
  cases i with
  | ledSetpin | ledOn | ledOff | ledToggle | ledBlink | ledPulse | ledRun | ledGetstate | ledSetshort | ledSetlong | ledSethalf =>
    exact absurd (by simp [unitOf, opcodeOf, opUnit]) h
  | _ => rfl

/-- Settles O48, from what the operation leaves in the registers of LED. -/
theorem ledRegistersHaveTheirWriters : Obligations.LedRegistersHaveTheirWriters := by
  unfold Obligations.LedRegistersHaveTheirWriters
  intro s t i h
  rw [exec_led h]
  obtain ⟨hoe, hphase, hhalf, hpulse, hshort, hlong, hcfgHalf⟩ := ledAfter_writers s.nowMillis i s.led
  refine ⟨hoe, hphase, hhalf, hpulse, hshort, hlong, hcfgHalf, ?blink, ?runMode, ?runPhase, ?quiet, ledAfter_of_other_unit _ _⟩
  case blink => rintro rfl; rfl
  case runMode => rintro rfl hm; exact ledAfterRun_mode _ hm
  case runPhase => rintro rfl hm; exact ledAfterRun_phase _ hm
  case quiet => rintro (rfl | ⟨ms, rfl | rfl | rfl⟩) <;> exact ⟨rfl, rfl, rfl⟩

/-! ## The writers of the registers of SW -/

/-- A run leaves the polarity, the configured flag and the debounce time (R161). -/
theorem swAfterRun_frame (w : SwState) (sample : Bool) (now : Word32) :
    (swAfterRun w sample now).activeHigh = w.activeHigh ∧ (swAfterRun w sample now).cfgd = w.cfgd
      ∧ (swAfterRun w sample now).debounceMs = w.debounceMs := by
  unfold swAfterRun
  dsimp only
  split
  · split <;> exact ⟨rfl, rfl, rfl⟩
  · exact ⟨rfl, rfl, rfl⟩

theorem swAfter_writers (pin : Bool) (now : Word32) (i : Instr) (w : SwState) :
    (i ≠ .swRun → (swAfter pin now i w).raw = w.raw ∧ (swAfter pin now i w).stable = w.stable
        ∧ (swAfter pin now i w).lastChangeTime = w.lastChangeTime
        ∧ (swAfter pin now i w).lastStateDuration = w.lastStateDuration
        ∧ (swAfter pin now i w).mismatchStart = w.mismatchStart)
      ∧ (i ≠ .swRun → i ≠ .swStatechanged → (swAfter pin now i w).changed = w.changed)
      ∧ (i ≠ .swRun → i ≠ .swResetduration → (swAfter pin now i w).currentStateStart = w.currentStateStart)
      ∧ ((∀ b, i ≠ .swSetpin b) → (swAfter pin now i w).activeHigh = w.activeHigh ∧ (swAfter pin now i w).cfgd = w.cfgd)
      ∧ ((∀ ms, i ≠ .swSetdebounce ms) → (swAfter pin now i w).debounceMs = w.debounceMs) := by
  cases i with
  | swRun =>
    obtain ⟨hpol, hcfgd, hdebounce⟩ := swAfterRun_frame w (normalise pin w.activeHigh) now
    exact ⟨fun h => absurd rfl h, fun h => absurd rfl h, fun h => absurd rfl h, fun _ => ⟨hpol, hcfgd⟩, fun _ => hdebounce⟩
  | _ => simp [swAfter]

theorem swAfter_of_other_unit {i : Instr} (pin : Bool) (now : Word32) (w : SwState) (h : unitOf i ≠ 2) :
    swAfter pin now i w = w := by
  cases i with
  | swSetpin | swRun | swGetstate | swIspressed | swStatechanged | swCurduration | swLastduration | swLastchangetime
  | swResetduration | swSetdebounce => exact absurd (by simp [unitOf, opcodeOf, opUnit]) h
  | _ => rfl

/-- Settles O57, from what the operation leaves in the registers of SW. -/
theorem swRegistersHaveTheirWriters : Obligations.SwRegistersHaveTheirWriters := by
  unfold Obligations.SwRegistersHaveTheirWriters
  intro s t i h
  rw [exec_sw h]
  obtain ⟨hsampled, hchanged, hstart, hpin, hdebounce⟩ := swAfter_writers s.pinSw s.nowMillis i s.sw
  exact ⟨hsampled, hchanged, hstart, hpin, hdebounce, swAfter_of_other_unit _ _ _⟩

/-! ## Where operations stop -/

/-- What peek, get and insert-time share: an answer for a ring with nothing to give, else one made of the oldest cell. -/
def State.onOldest (s atNone : State) (withCell : TimedFrame → State) : Result :=
  if s.ringHasNone = true then .next atNone
  else
    match s.cellRead s.ring.tail with
    | .error e => .fault e
    | .ok c => .next (withCell c)

theorem execRingPeek_eq (s : State) :
    execRingPeek s = s.onOldest (s.respond .none 0 0) fun c => s.respond .ok 0 (packFrame c.frame) := rfl

theorem execRingGet_eq (s : State) :
    execRingGet s = s.onOldest (s.respond .none 0 0) fun c =>
      (s.setRing (ringAfterGet s.capacity s.ring)).respond .ok 0 (packFrame c.frame) := rfl

theorem execRingInserttime_eq (s : State) :
    execRingInserttime s = s.onOldest (s.countDraw.respondData (Config.freeStamp s.draws)) fun c => s.respondData c.stamp := rfl

/-- The three operations that look at the oldest frame. -/
theorem exec_eq_onOldest {i : Instr} (hi : i = .ringPeek ∨ i = .ringGet ∨ i = .ringInserttime) (s : State) :
    ∃ atNone withCell, exec i s = s.onOldest atNone withCell := by
  rcases hi with rfl | rfl | rfl
  · exact ⟨_, _, execRingPeek_eq s⟩
  · exact ⟨_, _, execRingGet_eq s⟩
  · exact ⟨_, _, execRingInserttime_eq s⟩

section

variable {s atNone : State} {withCell : TimedFrame → State}

theorem State.onOldest_of_no_cell (hc : s.capacity ≠ 0) (hs : s.ring.size ≠ 0) (ht : s.capacity.toNat ≤ s.ring.tail.toNat) :
    s.onOldest atNone withCell = .fault (.noSuchCell s.ring.tail) := by
  have hsome : ¬ s.ringHasNone = true := mt s.ringHasNone_iff.1 (not_or.2 ⟨hc, hs⟩)
  have hread : s.cellRead s.ring.tail = .error (.noSuchCell s.ring.tail) := if_neg (Nat.not_lt.2 ht)
  rw [State.onOldest, if_neg hsome, hread]

theorem State.onOldest_fault {r : Fault} (h : s.onOldest atNone withCell = .fault r) :
    s.capacity ≠ 0 ∧ s.ring.size ≠ 0 ∧ s.capacity.toNat ≤ s.ring.tail.toNat ∧ r = .noSuchCell s.ring.tail := by
  unfold State.onOldest at h
  split at h
  · cases h
  next hsome =>
    split at h
    next e hread =>
      obtain ⟨hc, hs⟩ := not_or.1 (mt s.ringHasNone_iff.2 hsome)
      cases h
      exact ⟨hc, hs, State.cellRead_error hread⟩
    next => cases h

theorem State.onOldest_ne_refused {r : Refusal} : s.onOldest atNone withCell ≠ .refused r := by
  unfold State.onOldest
  split
  · exact nofun
  · split <;> exact nofun

end

theorem frame_wellFormed_iff (f : Frame) : f.wellFormed = true ↔ f.len.toNat ≤ 8 := decide_eq_true_iff

theorem frame_wellFormed_eq_false_iff (f : Frame) : f.wellFormed = false ↔ 9 ≤ f.len.toNat := by
  rw [← Bool.not_eq_true, frame_wellFormed_iff f]
  omega

theorem execRingPut_of_not_frame {f : Frame} (s : State) (h : f.wellFormed = false) :
    execRingPut f s = .refused (.notAFrame f.len) := if_pos h

theorem execRingPut_of_no_cell {f : Frame} {s : State} (hf : f.wellFormed = true) (hc : s.capacity ≠ 0)
    (hh : s.capacity.toNat ≤ s.ring.head.toNat) : execRingPut f s = .fault (.noSuchCell s.ring.head) := by
  have hwrite : ∀ c, s.cellWrite s.ring.head c = .error (.noSuchCell s.ring.head) := fun _ => if_neg (Nat.not_lt.2 hh)
  rw [execRingPut, if_neg (by simp [hf]), if_neg hc, hwrite]

/-- A look at the oldest frame faults if its cell does not exist. -/
theorem exec_of_no_cell {i : Instr} {s : State} (hi : i = .ringPeek ∨ i = .ringGet ∨ i = .ringInserttime) (hc : s.capacity ≠ 0)
    (hs : s.ring.size ≠ 0) (ht : s.capacity.toNat ≤ s.ring.tail.toNat) : exec i s = .fault (.noSuchCell s.ring.tail) := by
  obtain ⟨atNone, withCell, he⟩ := exec_eq_onOldest hi s
  rw [he, State.onOldest_of_no_cell hc hs ht]

/-- The only operation that is refused is a put of what is not a Frame. -/
theorem exec_refused {i : Instr} {s : State} {r : Refusal} (h : exec i s = .refused r) :
    ∃ f, i = .ringPut f ∧ f.wellFormed = false ∧ r = .notAFrame f.len := by
  by_cases hi : i = .ringPeek ∨ i = .ringGet ∨ i = .ringInserttime
  · obtain ⟨atNone, withCell, he⟩ := exec_eq_onOldest hi s
    exact absurd (he.symm.trans h) State.onOldest_ne_refused
  · cases i with
    | ringPut f => exact ⟨f, rfl, execRingPut_refused h⟩
    | ringPeek | ringGet | ringInserttime => simp at hi
    | _ => cases h

/-- The only operations that fault are the four that access a cell, where that cell does not exist. -/
theorem exec_fault {i : Instr} {s : State} {r : Fault} (h : exec i s = .fault r) :
    s.capacity ≠ 0 ∧
    ((∃ f, i = .ringPut f ∧ f.wellFormed = true ∧ s.capacity.toNat ≤ s.ring.head.toNat ∧ r = .noSuchCell s.ring.head) ∨
     ((i = .ringPeek ∨ i = .ringGet ∨ i = .ringInserttime) ∧ s.ring.size ≠ 0 ∧ s.capacity.toNat ≤ s.ring.tail.toNat ∧
      r = .noSuchCell s.ring.tail)) := by
  by_cases hi : i = .ringPeek ∨ i = .ringGet ∨ i = .ringInserttime
  · obtain ⟨atNone, withCell, he⟩ := exec_eq_onOldest hi s
    obtain ⟨hc, htail⟩ := State.onOldest_fault (he.symm.trans h)
    exact ⟨hc, .inr ⟨hi, htail⟩⟩
  · cases i with
    | ringPut f =>
      obtain ⟨hf, hc, hhead⟩ := execRingPut_fault h
      exact ⟨hc, .inl ⟨f, rfl, hf, hhead⟩⟩
    | ringPeek | ringGet | ringInserttime => simp at hi
    | _ => cases h

/-- Settles O26: the stops of the put, and of the three operations that look at the oldest frame. -/
theorem ringStopsOnlyOutsideTheSpec : Obligations.RingStopsOnlyOutsideTheSpec := by
  unfold Obligations.RingStopsOnlyOutsideTheSpec
  refine ⟨fun s f hf => ?notFrame, fun s f hf hc hh => ?putFault, fun s hc hs ht => ?readFault, fun s i r h => ?refused,
    fun s i r h => ?fault⟩
  case notFrame => exact execRingPut_of_not_frame s ((frame_wellFormed_eq_false_iff f).2 hf)
  case putFault => exact execRingPut_of_no_cell ((frame_wellFormed_iff f).2 hf) hc hh
  case readFault =>
    exact ⟨exec_of_no_cell (.inl rfl) hc hs ht, exec_of_no_cell (.inr (.inl rfl)) hc hs ht,
      exec_of_no_cell (.inr (.inr rfl)) hc hs ht⟩
  case refused =>
    obtain ⟨f, rfl, hf, rfl⟩ := exec_refused h
    exact ⟨f, rfl, (frame_wellFormed_eq_false_iff f).1 hf, rfl⟩
  case fault => simpa only [frame_wellFormed_iff] using exec_fault h

/-! ## The output pins -/

/-- Settles O49: the pins read the registers, so SETPIN's pins are those of the registers it leaves. -/
theorem outputsFollowRegisters : Obligations.OutputsFollowRegisters := by
  unfold Obligations.OutputsFollowRegisters
  refine ⟨fun s => ⟨rfl, rfl, ?_, ?_⟩, fun s t h => ?_, fun s t b h => ?_⟩
  · simp [State.swPullUp]
  · simp [State.swPullDown]
  · have hled := exec_led h
    exact ⟨congrArg LedState.level hled, congrArg LedState.oe hled⟩
  · have hsw := exec_sw h
    simp [State.swPullUp, State.swPullDown, hsw, swAfter]

end Sys2Proof.Machine

namespace Sys2Proof.Machine

/-! ## What an operation leaves alone -/

/-- An operation that answers writes registers of the three units, the response and the counter of draws at most: CAPACITY,
clock, pin and the coming inputs stay. -/
theorem exec_frame {i : Instr} {s t : State} (h : exec i s = .next t) :
    t = { s with ring := t.ring, led := t.led, sw := t.sw, resp := t.resp, draws := t.draws } := by
  cases i with
  | ringPut f => obtain ⟨-, ⟨-, rfl⟩ | ⟨-, -, rfl⟩⟩ := execRingPut_cases h <;> rfl
  | ringPeek => obtain ⟨-, rfl⟩ | ⟨-, -, rfl⟩ := execRingPeek_cases h <;> rfl
  | ringGet => obtain ⟨-, rfl⟩ | ⟨-, -, rfl⟩ := execRingGet_cases h <;> rfl
  | ringInserttime => obtain ⟨-, rfl⟩ | ⟨-, -, rfl⟩ := execRingInserttime_cases h <;> rfl
  | _ => cases h; rfl

theorem exec_tUs {i : Instr} {s t : State} (h : exec i s = .next t) : t.tUs = s.tUs := by rw [exec_frame h]

/-! ## The unread frames as a queue -/

/-- The content of `n` cells from cell `t` on, on a circle of `c` cells. -/
def cellWindow (m : Memory) (c t n : Nat) : List TimedFrame :=
  (List.range n).map fun k => Memory.read m ((t + k) % c)

/-- The unread frames are the window of `size` cells from `tail` on (R21 item 7). -/
theorem ringContents_eq_cellWindow (capacity : Index) (r : RingState) :
    ringContents capacity r = cellWindow r.cells capacity.toNat r.tail.toNat r.size.toNat := rfl

theorem ringContents_length (capacity : Index) (r : RingState) : (ringContents capacity r).length = r.size.toNat := by
  simp [ringContents]

theorem cellWindow_succ (m : Memory) (c t n : Nat) :
    cellWindow m c t (n + 1) = cellWindow m c t n ++ [Memory.read m ((t + n) % c)] := by
  simp [cellWindow, List.range_succ]

theorem cellWindow_tail (m : Memory) (c t n : Nat) : (cellWindow m c t n).tail = cellWindow m c ((t + 1) % c) (n - 1) := by
  cases n with
  | zero => rfl
  | succ n =>
    simp only [cellWindow, List.range_succ_eq_map, List.map_cons, List.map_map, List.tail_cons, Nat.add_sub_cancel]
    refine List.map_congr_left fun k _ => ?_
    rw [Function.comp_apply, Nat.mod_add_mod, Nat.succ_eq_add_one, Nat.add_assoc, Nat.add_comm 1]

/-- The cell just past a window that is not the whole circle is none of its cells. -/
theorem add_mod_ne_of_lt {c t k n : Nat} (ht : t < c) (hk : k < n) (hn : n < c) : (t + k) % c ≠ (t + n) % c := by
  rw [add_mod_of_le ht (by omega), add_mod_of_le ht hn.le]
  split <;> split <;> omega

/-- Storing into the cell just past a window makes the window one longer. -/
theorem cellWindow_write_succ (m : Memory) {c t n : Nat} (x : TimedFrame) (ht : t < c) (hn : n < c) :
    cellWindow (Memory.write m ((t + n) % c) x) c t (n + 1) = cellWindow m c t n ++ [x] := by
  rw [cellWindow_succ, Memory.read_write_same]
  congr 1
  exact List.map_congr_left fun k hk =>
    Memory.read_write_other _ _ _ _ (add_mod_ne_of_lt ht (List.mem_range.1 hk) hn)

section

variable {capacity : Index} {r : RingState}

/-- A put appends the frame; into a full ring it gives up the oldest (R100, R115). -/
theorem RingShape.contents_put (h : RingShape capacity r) (x : TimedFrame) :
    ringContents capacity (ringAfterPut capacity { r with cells := Memory.write r.cells r.head.toNat x }) =
      (if r.full then (ringContents capacity r).tail else ringContents capacity r) ++ [x] := by
  have hsize := (h.store x).put_size
  have hpos : 0 < capacity.toNat := Nat.zero_lt_of_lt h.tail_lt
  rw [ringContents_eq_cellWindow, hsize, ringAfterPut_cells, ringAfterPut_tail, ringContents_eq_cellWindow]
  dsimp only
  by_cases hf : r.full = true
  · have hfull := h.full_iff.1 hf
    have hhead : r.head.toNat = ((r.tail.toNat + 1) % capacity.toNat + (capacity.toNat - 1)) % capacity.toNat := by
      rw [h.head_eq, hfull, Nat.mod_add_mod]
      congr 1
      omega
    have hlen : capacity.toNat = capacity.toNat - 1 + 1 := by omega
    have hwindow := cellWindow_write_succ r.cells x (Nat.mod_lt (r.tail.toNat + 1) hpos) (Nat.sub_lt hpos one_pos)
    rw [← hhead, ← hlen] at hwindow
    rw [if_pos hf, if_pos hf, if_pos hf, advance_toNat _ _ h.capacity_ne_zero, cellWindow_tail, hfull, hwindow]
  · have hroom : r.size.toNat < capacity.toNat := lt_of_le_of_ne h.size_le (mt h.full_iff.2 hf)
    rw [if_neg hf, if_neg hf, if_neg hf, h.head_eq, cellWindow_write_succ r.cells x h.tail_lt hroom]

/-- A get removes the oldest frame (R102). -/
theorem RingShape.contents_get (h : RingShape capacity r) (hs : r.size ≠ 0) :
    ringContents capacity (ringAfterGet capacity r) = (ringContents capacity r).tail := by
  have hcells : (ringAfterGet capacity r).cells = r.cells := rfl
  rw [ringContents_eq_cellWindow, ringContents_eq_cellWindow, h.get_size hs, hcells, ringAfterGet_tail,
    advance_toNat _ _ h.capacity_ne_zero, cellWindow_tail]

end

theorem ringContents_of_size_zero (capacity : Index) {r : RingState} (h : r.size = 0) : ringContents capacity r = [] := by
  rw [ringContents_eq_cellWindow, h]; rfl

/-- Every operation does to the unread frames what it does to a bounded queue (R114, R115). -/
theorem RingInv.contents_after {capacity : Index} {r : RingState} (h : RingInv capacity r) (now : Word64) (i : Instr) :
    ringContents capacity (ringAfter capacity now i r) = queueAfter capacity.toNat now i (ringContents capacity r) := by
  have hc0 : capacity = 0 ↔ capacity.toNat = 0 := BitVec.toNat_inj.symm
  cases i with
  | ringPut f =>
    by_cases hc : capacity = 0
    · rw [ringAfter_put_of_zero now f r hc, queueAfter, if_pos (hc0.1 hc)]
      rfl
    · have hshape := (h.2 hc).shape
      rw [ringAfter_put_of_ne now f r hc, hshape.contents_put, queueAfter, if_neg (mt hc0.2 hc), ringContents_length]
      simp only [hshape.full_iff]
  | ringGet =>
    by_cases hnone : capacity = 0 ∨ r.size = 0
    · have hsize : r.size = 0 := hnone.elim (fun hc => by obtain ⟨-, -, -, -, hsize, -⟩ := h.1 hc; exact hsize) id
      rw [ringAfter_get_of_none now hnone, queueAfter, ringContents_of_size_zero capacity hsize, List.tail_nil]
    · obtain ⟨hc, hs⟩ := not_or.1 hnone
      rw [ringAfter_get_of_some now hnone, (h.2 hc).shape.contents_get hs, queueAfter]
  | ringClear => exact ringContents_of_size_zero capacity rfl
  | _ => rfl

/-! ## The order of the capture stamps -/

/-- The stamps of a queue do not decrease and none is later than `now` (R64). -/
def QueueOrdered (now : Word64) (q : List TimedFrame) : Prop :=
  q.Pairwise (fun a b => a.stamp.toNat ≤ b.stamp.toNat) ∧ ∀ c ∈ q, c.stamp.toNat ≤ now.toNat

theorem stampsOrdered_iff (s : State) : StampsOrdered s ↔ QueueOrdered s.tUs s.contents := Iff.rfl

theorem QueueOrdered.nil (now : Word64) : QueueOrdered now [] := ⟨.nil, nofun⟩

theorem QueueOrdered.tail {now : Word64} {q : List TimedFrame} (h : QueueOrdered now q) : QueueOrdered now q.tail :=
  ⟨h.1.tail, fun c hc => h.2 c (List.mem_of_mem_tail hc)⟩

/-- A frame stamped now goes last. -/
theorem QueueOrdered.append_now {now : Word64} {q : List TimedFrame} (h : QueueOrdered now q) (f : Frame) :
    QueueOrdered now (q ++ [{ frame := f, stamp := now }]) := by
  obtain ⟨hsorted, hbound⟩ := h
  refine ⟨List.pairwise_append.2 ⟨hsorted, List.pairwise_singleton _ _, fun a ha b hb => ?_⟩, fun c hc => ?_⟩
  · rw [List.mem_singleton.1 hb]
    exact hbound a ha
  · rcases List.mem_append.1 hc with hc | hc
    · exact hbound c hc
    · rw [List.mem_singleton.1 hc]

theorem QueueOrdered.later {now now' : Word64} {q : List TimedFrame} (h : QueueOrdered now q)
    (hle : now.toNat ≤ now'.toNat) : QueueOrdered now' q :=
  ⟨h.1, fun c hc => (h.2 c hc).trans hle⟩

theorem QueueOrdered.after {now : Word64} {q : List TimedFrame} (h : QueueOrdered now q) (capacity : Nat) (i : Instr) :
    QueueOrdered now (queueAfter capacity now i q) := by
  cases i with
  | ringPut f =>
    rw [queueAfter]
    split
    · exact h
    · split
      · exact h.tail.append_now f
      · exact h.append_now f
  | ringGet => exact h.tail
  | ringClear => exact .nil now
  | _ => exact h

theorem exec_contents {i : Instr} {s t : State} (hs : BlockInv s) (h : exec i s = .next t) :
    t.contents = queueAfter s.capacity.toNat s.tUs i s.contents := by
  rw [State.contents, exec_capacity h, exec_ring h]
  exact hs.1.contents_after s.tUs i

theorem exec_keeps_stampsOrdered {i : Instr} {s t : State} (hs : BlockInv s) (ho : StampsOrdered s)
    (h : exec i s = .next t) : StampsOrdered t := by
  rw [stampsOrdered_iff, exec_tUs h, exec_contents hs h]
  exact ((stampsOrdered_iff s).1 ho).after _ i

/-- Settles O39: taking the clock sample moves the bound up, a reset empties the ring, and each command does to the unread frames
what a queue does, which takes frames from the front and appends one stamped with the clock. -/
theorem stampsStayOrdered : Obligations.StampsStayOrdered := by
  unfold Obligations.StampsStayOrdered
  intro s t hs ho h
  rcases step_cases h with ⟨-, rfl⟩ | ⟨-, hrun⟩
  · exact QueueOrdered.nil _
  · have hlatched : StampsOrdered (s.latch s.nextInput.1 s.nextInput.2) :=
      QueueOrdered.later ((stampsOrdered_iff s).1 ho) (clockSample_ge s.tUs s.nextInput.1.tUs)
    have hkept : BlockInv t ∧ StampsOrdered t :=
      runCommands_induct (P := fun u => BlockInv u ∧ StampsOrdered u)
        (fun _ _ _ hu hi => ⟨exec_keeps_blockInv hu.1 hi, exec_keeps_stampsOrdered hu.1 hu.2 hi⟩) (fun _ hu => hu) _
        (s.latch s.nextInput.1 s.nextInput.2) _ ⟨hs, hlatched⟩ hrun
    exact hkept.2

/-! ## Every operation completes -/

/-- In a ring with cells that has its invariant, `head` and `tail` name cells (R54). -/
theorem BlockInv.head_tail_lt {s : State} (hs : BlockInv s) (hc : s.capacity ≠ 0) :
    s.ring.head.toNat < s.capacity.toNat ∧ s.ring.tail.toNat < s.capacity.toNat :=
  have hshape := (hs.1.2 hc).shape
  ⟨hshape.head_lt, hshape.tail_lt⟩

theorem BlockInv.exec_ne_fault {s : State} (hs : BlockInv s) (i : Instr) (r : Fault) : exec i s ≠ .fault r := by
  intro h
  obtain ⟨hc, hcell⟩ := exec_fault h
  obtain ⟨hhead, htail⟩ := hs.head_tail_lt hc
  rcases hcell with ⟨-, -, -, hge, -⟩ | ⟨-, -, hge, -⟩ <;> omega

theorem exec_ne_refused {i : Instr} (hi : wellFormed i = true) (s : State) (r : Refusal) : exec i s ≠ .refused r := by
  intro h
  obtain ⟨f, rfl, hf, -⟩ := exec_refused h
  exact absurd hi (by simp [wellFormed, hf])

/-- Settles O23: the stops of an operation are a missing cell, which the invariant rules out, and a term that is no Frame. -/
theorem everyOperationCompletes : Obligations.EveryOperationCompletes := by
  unfold Obligations.EveryOperationCompletes
  intro s i hs hi
  cases h : exec i s with
  | next t => exact ⟨t, rfl, by rw [exec_frame h]; exact ⟨rfl, rfl, rfl, rfl⟩⟩
  | fault r => exact absurd h (hs.exec_ne_fault i r)
  | refused r => exact absurd h (exec_ne_refused hi s r)

/-! ## A put beside what does not touch RING -/

/-- A put reads CAPACITY, clock and RING and writes RING: it commutes with whatever leaves these alone. -/
theorem execRingPut_comm (g : State → State) (f : Frame) (s : State) (hcap : (g s).capacity = s.capacity)
    (hclock : (g s).tUs = s.tUs) (hring : (g s).ring = s.ring) (hset : ∀ r, g (s.setRing r) = (g s).setRing r) :
    execRingPut f (g s) = mapNext g (execRingPut f s) := by
  unfold execRingPut State.cellWrite State.nowMicros
  rw [hcap, hclock, hring]
  by_cases hf : f.wellFormed = false
  · rw [if_pos hf, if_pos hf]; rfl
  rw [if_neg hf, if_neg hf]
  by_cases hc : s.capacity = 0
  · rw [if_pos hc, if_pos hc, mapNext, hset]
  rw [if_neg hc, if_neg hc]
  by_cases hh : s.ring.head.toNat < s.capacity.toNat
  · simp only [if_pos hh, mapNext, State.setRing_setRing, State.setRing_ring, hset]
  · simp only [if_neg hh, mapNext]

/-- A put writes RING and nothing else. -/
theorem exec_put_eq_setRing {f : Frame} {s t : State} (h : exec (.ringPut f) s = .next t) : t = s.setRing t.ring := by
  obtain ⟨-, ⟨-, rfl⟩ | ⟨-, -, rfl⟩⟩ := execRingPut_cases h <;> rfl

/-- Put into `u` the LED and SW registers and the response that an LED or SW operation leaves when it runs on `s`. -/
def panelAfter (i : Instr) (s u : State) : State :=
  { u with led := ledAfter s.nowMillis i s.led, sw := swAfter s.pinSw s.nowMillis i s.sw, resp := respOf (exec i s) }

/-- An LED or SW operation always answers, and does the same whatever RING holds. -/
theorem exec_setRing_of_not_ring {i : Instr} (hi : unitOf i ≠ 0) (s : State) (r : RingState) :
    exec i (s.setRing r) = .next (panelAfter i s (s.setRing r)) := by
  cases i with
  | ringPut | ringPeek | ringGet | ringInserttime | ringClear | ringSize | ringEmpty | ringFull | ringAvailable | ringFreeslots
  | ringHighwater | ringPuts | ringGets | ringOverflows => exact absurd (by simp [unitOf, opcodeOf, opUnit]) hi
  | _ => rfl

theorem exec_of_not_ring {i : Instr} (hi : unitOf i ≠ 0) (s : State) : exec i s = .next (panelAfter i s s) :=
  exec_setRing_of_not_ring hi s s.ring

/-- Settles O58: an LED or SW operation replaces registers and response by values that a put leaves alone, and a put replaces
registers that it does not read. -/
theorem putCommutesWithLedAndSw : Obligations.PutCommutesWithLedAndSw := by
  unfold Obligations.PutCommutesWithLedAndSw
  intro s f i hi
  refine ⟨?commute, fun t h => ?ringKept, fun t h => ?panelKept⟩
  case commute =>
    have hcomm : exec (.ringPut f) (panelAfter i s s) = mapNext (panelAfter i s) (exec (.ringPut f) s) :=
      execRingPut_comm (panelAfter i s) f s rfl rfl rfl fun _ => rfl
    rw [exec_of_not_ring hi s, andThen, hcomm]
    cases h : exec (.ringPut f) s with
    | next t => rw [andThen, mapNext, exec_put_eq_setRing h, exec_setRing_of_not_ring hi]
    | fault r => rfl
    | refused r => rfl
  case ringKept =>
    rw [exec_of_not_ring hi s] at h
    cases h
    rfl
  case panelKept =>
    rw [exec_put_eq_setRing h]
    exact ⟨rfl, rfl, rfl⟩

/-! ## Two commands in one step -/

theorem runCommands_cons_eq (c : Command) (cs : List Command) (s : State) :
    runCommands (c :: cs) s = andThen (runCommand c s) (runCommands cs) := by
  rw [runCommands]
  cases runCommand c s <;> rfl

theorem runCommands_pair (c d : Command) (s : State) :
    runCommands [c, d] s = andThen (runCommand c s) (runCommand d) := by
  rw [runCommands_cons_eq]
  congr 1
  funext u
  rw [runCommands_cons_eq]
  cases runCommand d u <;> rfl

theorem runCommand_of_ok {c : Command} {i : Instr} (h : decode c = .ok i) : runCommand c = exec i := by
  funext s; rw [runCommand, h]

theorem runCommand_of_error {c : Command} {e : DecodeError} (h : decode c = .error e) : runCommand c = rejectCommand e := by
  funext s; rw [runCommand, h]

/-- A step without reset runs the commands presented. -/
theorem step_of_inputs {s : State} {e : StepInput} {rest : List StepInput} (h : s.inputs = e :: rest) (hrst : e.rst = false) :
    step s = runCommands e.commands (s.latch e rest) := by
  simp [step, State.nextInput, h, runInput, hrst]

/-- The two commands of a step, in the order the input chooses (R59). -/
theorem step_of_both {s : State} {e : StepInput} {rest : List StepInput} {wp : FrameWord} {wf : CmdWord}
    (h : s.inputs = e :: rest) (hrst : e.rst = false) (hp : e.p = some wp) (hf : e.f = some wf) :
    step s =
      if e.pFirst then andThen (runCommand (.p wp) (s.latch e rest)) (runCommand (.f wf))
      else andThen (runCommand (.f wf) (s.latch e rest)) (runCommand (.p wp)) := by
  rw [step_of_inputs h hrst, StepInput.commands, hp, hf]
  dsimp only
  split <;> exact runCommands_pair _ _ _

theorem opUnit_eq (op : BitVec 8) : opUnit op = op.toNat / 16 := by
  have := op.isLt
  simp [opUnit, Nat.shiftRight_eq_div_pow]
  omega

theorem opFunction_eq (op : BitVec 8) : opFunction op = op.toNat % 16 := by
  simp [opFunction]

theorem decodeRing_of_reserved {fn : Nat} (h : fn = 0 ∨ 14 ≤ fn) : decodeRing fn = none := by
  rcases h with rfl | h
  · rfl
  · obtain ⟨k, rfl⟩ := Nat.exists_eq_add_of_le' h
    rfl

theorem decodeLed_of_reserved {fn : Nat} (arg : Word32) (h : 11 ≤ fn) : decodeLed fn arg = none := by
  obtain ⟨k, rfl⟩ := Nat.exists_eq_add_of_le' h
  rfl

theorem decodeSw_of_reserved {fn : Nat} (arg : Word32) (h : 10 ≤ fn) : decodeSw fn arg = none := by
  obtain ⟨k, rfl⟩ := Nat.exists_eq_add_of_le' h
  rfl

/-- R80's list, by unit and function within the unit. -/
theorem reservedOnF_iff (op : BitVec 8) :
    reservedOnF op = true ↔
      (opUnit op = 0 ∧ (opFunction op = 0 ∨ 14 ≤ opFunction op)) ∨ (opUnit op = 1 ∧ 11 ≤ opFunction op)
        ∨ (opUnit op = 2 ∧ 10 ≤ opFunction op) ∨ 3 ≤ opUnit op := by
  rw [opUnit_eq, opFunction_eq, reservedOnF, decide_eq_true_iff]
  omega

/-- A reserved opcode decodes to no operation, whatever the operand (R80). -/
theorem decodeFields_of_reserved {op : BitVec 8} (arg : Word32) (h : reservedOnF op = true) :
    decodeFields op arg = .error (.reservedOpcode op) := by
  unfold decodeFields
  rcases (reservedOnF_iff op).1 h with ⟨hu, hfn⟩ | ⟨hu, hfn⟩ | ⟨hu, hfn⟩ | hu
  · rw [hu, decodeRing_of_reserved hfn]; rfl
  · rw [hu, decodeLed_of_reserved arg hfn]; rfl
  · rw [hu, decodeSw_of_reserved arg hfn]; rfl
  · obtain ⟨k, hk⟩ := Nat.exists_eq_add_of_le' hu
    rw [hk]; rfl

/-- A reserved opcode answers ILLEGAL (R80). -/
theorem runCommand_of_reserved {w : CmdWord} (h : reservedOnF (cmdOp w) = true) :
    runCommand (.f w) = fun s => .next (s.respond .illegal 0 0) :=
  runCommand_of_error (c := .f w) (decodeFields_of_reserved (cmdArg w) h)

theorem decodeP_eq_put {w : FrameWord} {i : Instr} (h : decode (.p w) = .ok i) : i = .ringPut (frameFields w) := by
  rw [decode, decodeP] at h
  split at h <;> cases h
  rfl

/-- A port P word whose length field is 9 to 15 is refused (U5, log 9). -/
theorem runCommand_of_not_frame {w : FrameWord} (h : 9 ≤ (w.extractLsb' 34 4).toNat) :
    runCommand (.p w) = fun _ => .refused (.notAFrame (w.extractLsb' 34 4)) := by
  have hlen : ¬ lenIsLegal (frameFields w).len = true := by
    rw [lenIsLegal, decide_eq_true_iff]
    exact Nat.not_le.2 h
  exact runCommand_of_error (c := .p w) (if_neg hlen)

/-- Settles O12: both commands run in the order chosen, a put commutes with the ILLEGAL response, and a word that is not a Frame
is refused in whatever state its turn comes. -/
theorem stepRunsBothCommandsInOrder : Obligations.StepRunsBothCommandsInOrder := by
  unfold Obligations.StepRunsBothCommandsInOrder
  intro s e rest wp wf hin hrst hp hf
  rw [step_of_both hin hrst hp hf]
  refine ⟨fun put op hput hop => ?both, fun put hput hres => ?reserved, fun hlen => ⟨fun hfirst => ?refusedAtOnce,
    fun hfirst op hop => ?refusedAfter⟩⟩
  case both => rw [runCommand_of_ok hput, runCommand_of_ok hop]
  case reserved =>
    rw [runCommand_of_ok hput, runCommand_of_reserved hres]
    obtain rfl := decodeP_eq_put hput
    split
    · cases exec (.ringPut (frameFields wp)) (s.latch e rest) <;> rfl
    · exact execRingPut_comm (·.respond .illegal 0 0) _ _ rfl rfl rfl fun _ => rfl
  case refusedAtOnce =>
    rw [runCommand_of_not_frame hlen]
    rcases hfirst with hfirst | hres
    · rw [if_pos hfirst, andThen]
    · rw [runCommand_of_reserved hres]
      split <;> rfl
  case refusedAfter =>
    rw [runCommand_of_not_frame hlen, runCommand_of_ok hop, if_neg (by simp [hfirst])]

end Sys2Proof.Machine

namespace Sys2Proof.Machine

/-! ## The fields of a packed frame

A packed frame is an `or` of fields that do not overlap (R73). Reading a frame back takes each field out of that `or`; packing the
fields of a word puts adjacent fields together again, from bit 0 upwards. -/

theorem getLsbD_fieldAt {n : Nat} (lo : Nat) (v : BitVec n) (j : Nat) :
    (fieldAt lo v).getLsbD j = (decide (lo ≤ j ∧ j < 102) && v.getLsbD (j - lo)) := by
  by_cases hlo : lo ≤ j <;> by_cases hj : j < 102 <;> simp [fieldAt, hlo, hj]

/-- A field is found where it was placed. -/
@[simp] theorem extractLsb'_fieldAt_same {n lo : Nat} (v : BitVec n) (h : lo + n ≤ 102) :
    (fieldAt lo v).extractLsb' lo n = v := by
  refine BitVec.eq_of_getLsbD_eq fun i hi => ?_
  rw [BitVec.getLsbD_extractLsb', getLsbD_fieldAt]
  simp [hi, show lo + i < 102 by omega]

/-- A field leaves nothing where another one lies. -/
@[simp] theorem extractLsb'_fieldAt_apart {n lo k m : Nat} (v : BitVec n) (h : lo + n ≤ k ∨ k + m ≤ lo) :
    (fieldAt lo v).extractLsb' k m = 0#m := by
  refine BitVec.eq_of_getLsbD_eq fun i hi => ?_
  rw [BitVec.getLsbD_extractLsb', getLsbD_fieldAt]
  rcases h with h | h
  · simp [BitVec.getLsbD_of_ge v (k + i - lo) (by omega)]
  · simp [show ¬ lo ≤ k + i by omega]

theorem ofBool_getLsbD (w : FrameWord) (k : Nat) : BitVec.ofBool (w.getLsbD k) = w.extractLsb' k 1 := by
  refine BitVec.eq_of_getLsbD_eq fun i hi => ?_
  obtain rfl : i = 0 := by omega
  simp

/-- The low `k` bits of a packed frame, the rest 0. -/
def lowBits (w : FrameWord) (k : Nat) : FrameWord := fieldAt 0 (w.extractLsb' 0 k)

theorem getLsbD_lowBits (w : FrameWord) (k j : Nat) : (lowBits w k).getLsbD j = (decide (j < k) && w.getLsbD j) := by
  rw [lowBits, getLsbD_fieldAt]
  by_cases hj : j < 102
  · simp [hj]
  · simp [BitVec.getLsbD_of_ge w j (by omega)]

theorem lowBits_all (w : FrameWord) : lowBits w 102 = w := by
  refine BitVec.eq_of_getLsbD_eq fun j hj => ?_
  rw [getLsbD_lowBits, decide_eq_true hj, Bool.true_and]

/-- The next field of a word joins the bits below it. -/
theorem lowBits_or_fieldAt (w : FrameWord) (k m : Nat) :
    lowBits w k ||| fieldAt k (w.extractLsb' k m) = lowBits w (k + m) := by
  refine BitVec.eq_of_getLsbD_eq fun j hj => ?_
  rw [BitVec.getLsbD_or, getLsbD_lowBits, getLsbD_lowBits, getLsbD_fieldAt, BitVec.getLsbD_extractLsb']
  by_cases hk : j < k
  · simp [hk, show ¬ k ≤ j by omega, show j < k + m by omega]
  · simp [hk, hj, show k ≤ j by omega, show j - k < m ↔ j < k + m by omega]

section

variable (f : Frame)

theorem packFrame_id : (packFrame f).extractLsb' 0 32 = f.id := by
  simp [packFrame, BitVec.extractLsb'_or]

theorem packFrame_ext : (packFrame f).getLsbD 32 = f.ext := by
  simp only [packFrame, BitVec.getLsbD_or, getLsbD_fieldAt]
  simp

theorem packFrame_rtr : (packFrame f).getLsbD 33 = f.rtr := by
  simp only [packFrame, BitVec.getLsbD_or, getLsbD_fieldAt]
  simp

theorem packFrame_len : (packFrame f).extractLsb' 34 4 = f.len := by
  simp [packFrame, BitVec.extractLsb'_or]

theorem packFrame_payload {i : Nat} (hi : i < 8) : (packFrame f).extractLsb' (38 + 8 * i) 8 = payloadLane f.data i := by
  interval_cases i <;>
    simp [packFrame, BitVec.extractLsb'_or, payloadLane]

theorem frameFields_packFrame : frameFields (packFrame f) = f := by
  have hlane (i : Nat) (hi : i < 8) : payloadByte (packFrame f) i = payloadLane f.data i := packFrame_payload f hi
  simp only [frameFields, packFrame_id, packFrame_ext, packFrame_rtr, packFrame_len, hlane, Nat.reduceLT, payloadLane]

end

theorem packFrame_frameFields (w : FrameWord) : packFrame (frameFields w) = w := by
  have hid : fieldAt 0 (w.extractLsb' 0 32) = lowBits w 32 := rfl
  simp only [packFrame, frameFields, payloadByte, ofBool_getLsbD, hid, lowBits_or_fieldAt, Nat.reduceAdd, Nat.reduceMul,
    lowBits_all]

/-- Settles O3: each field is read where it was placed, the two directions undo each other, and the example is computed. -/
theorem framePackingLayout : Obligations.FramePackingLayout := by
  unfold Obligations.FramePackingLayout
  refine ⟨fun f => ?layout, fun w f => ⟨?pack, ?unpack⟩, by decide⟩
  case layout =>
    exact ⟨packFrame_id f, packFrame_ext f, packFrame_rtr f, packFrame_len f, fun _ hi => packFrame_payload f hi⟩
  case pack => rintro rfl; exact packFrame_frameFields w
  case unpack => rintro rfl; exact frameFields_packFrame f

/-! ## The word of an instruction -/

theorem flagOperand_flagArg (b : Bool) : flagOperand (flagArg b) = b := by cases b <;> rfl

theorem decode_cmdWord (op : BitVec 8) (arg : Word32) : decode (.f (cmdWord op arg)) = decodeFields op arg :=
  decode_append op arg

/-- Port P reads the frame back if it is a Frame (R23). -/
theorem decode_packFrame {f : Frame} (h : f.wellFormed = true) : decode (.p (packFrame f)) = .ok (.ringPut f) := by
  rw [decode, decodeP, frameFields_packFrame]
  exact if_pos h

/-- Settles O1: a put goes through its frame, and every other word gives its opcode and its operand back. -/
theorem decodeInvertsEncode : Obligations.DecodeInvertsEncode := by
  unfold Obligations.DecodeInvertsEncode
  intro i hi
  cases i with
  | ringPut f => exact decode_packFrame hi
  | ledPulse b => exact (decode_cmdWord _ _).trans (congrArg (Except.ok ∘ Instr.ledPulse) (flagOperand_flagArg b))
  | swSetpin b => exact (decode_cmdWord _ _).trans (congrArg (Except.ok ∘ Instr.swSetpin) (flagOperand_flagArg b))
  | _ => exact decode_cmdWord _ _

/-! ## What an opcode selects -/

theorem commandOpcode_encode (i : Instr) : commandOpcode (encode i) = opcodeOf i := by
  cases i with
  | ringPut f => rfl
  | _ => exact Laws.Opcode.cmdOp_cmdWord _ _

/-- Only a put carries a check, and a put goes to port P. -/
theorem wellFormed_of_port_f {i : Instr} (h : portOf (encode i) = .f) : wellFormed i = true := by
  cases i with
  | ringPut f => cases h
  | _ => rfl

/-- The operation stands on port F at this function of this unit (R72, R75). -/
def PlacedAt (unit fn : Nat) (i : Instr) : Prop :=
  portOf (encode i) = .f ∧ (opcodeOf i).toNat = 16 * unit + fn

theorem decodeRing_placed {fn : Nat} {i : Instr} (h : decodeRing fn = some i) : PlacedAt 0 fn i := by
  unfold decodeRing at h
  split at h <;> cases h <;> exact ⟨rfl, rfl⟩

theorem decodeLed_placed {fn : Nat} {arg : Word32} {i : Instr} (h : decodeLed fn arg = some i) : PlacedAt 1 fn i := by
  unfold decodeLed at h
  split at h <;> cases h <;> exact ⟨rfl, rfl⟩

theorem decodeSw_placed {fn : Nat} {arg : Word32} {i : Instr} (h : decodeSw fn arg = some i) : PlacedAt 2 fn i := by
  unfold decodeSw at h
  split at h <;> cases h <;> exact ⟨rfl, rfl⟩

theorem elim_ok_iff {o : Option Instr} {e : DecodeError} {i : Instr} : o.elim (.error e) .ok = Except.ok i ↔ o = some i := by
  cases o <;> simp

/-- An operation that an opcode selects is one of port F and has that opcode (R75). -/
theorem decodeFields_ok {op : BitVec 8} {arg : Word32} {i : Instr} (h : decodeFields op arg = .ok i) :
    portOf (encode i) = .f ∧ opcodeOf i = op := by
  have hplaced : PlacedAt (opUnit op) (opFunction op) i := by
    unfold decodeFields at h
    split at h
    next hu => rw [hu]; exact decodeRing_placed (elim_ok_iff.1 h)
    next hu => rw [hu]; exact decodeLed_placed (elim_ok_iff.1 h)
    next hu => rw [hu]; exact decodeSw_placed (elim_ok_iff.1 h)
    next => cases h
  obtain ⟨hport, hopcode⟩ := hplaced
  rw [opUnit_eq, opFunction_eq, Nat.div_add_mod] at hopcode
  exact ⟨hport, BitVec.eq_of_toNat_eq hopcode⟩

/-- What port P reads is a Frame. -/
theorem decodeP_wellFormed {w : FrameWord} {i : Instr} (h : decode (.p w) = .ok i) : wellFormed i = true := by
  rw [decode, decodeP] at h
  split at h <;> cases h
  assumption

/-- Settles O2: port P gives back the frame it packs, and on port F the operation carries the opcode of its word. -/
theorem encodeKeepsWhatDecodeReads : Obligations.EncodeKeepsWhatDecodeReads := by
  unfold Obligations.EncodeKeepsWhatDecodeReads
  intro c i h
  cases c with
  | p w =>
    have hwf := decodeP_wellFormed h
    obtain rfl := decodeP_eq_put h
    have hword : encode (.ringPut (frameFields w)) = .p w := congrArg Command.p (packFrame_frameFields w)
    rw [hword]
    exact ⟨hwf, h, rfl, rfl, fun _ hw => hw⟩
  | f w =>
    obtain ⟨hport, hop⟩ := decodeFields_ok h
    have hwf := wellFormed_of_port_f hport
    exact ⟨hwf, decodeInvertsEncode i hwf, hport, (commandOpcode_encode i).trans hop, nofun⟩

/-! ## Reserved opcodes -/

theorem exists_decodeRing {fn : Nat} (hpos : 0 < fn) (hlt : fn < 14) : ∃ i, decodeRing fn = some i := by
  interval_cases fn <;> exact ⟨_, rfl⟩

theorem exists_decodeLed {fn : Nat} (arg : Word32) (hlt : fn < 11) : ∃ i, decodeLed fn arg = some i := by
  interval_cases fn <;> exact ⟨_, rfl⟩

theorem exists_decodeSw {fn : Nat} (arg : Word32) (hlt : fn < 10) : ∃ i, decodeSw fn arg = some i := by
  interval_cases fn <;> exact ⟨_, rfl⟩

/-- Every opcode outside R80's list selects an operation. -/
theorem decodeFields_of_not_reserved {op : BitVec 8} (arg : Word32) (h : reservedOnF op = false) :
    ∃ i, decodeFields op arg = .ok i := by
  have hrange := mt (reservedOnF_iff op).2 (by simp [h])
  have hunit : opUnit op = 0 ∨ opUnit op = 1 ∨ opUnit op = 2 := by omega
  unfold decodeFields
  rcases hunit with hu | hu | hu <;> rw [hu]
  · obtain ⟨i, hi⟩ := exists_decodeRing (fn := opFunction op) (by omega) (by omega)
    exact ⟨i, elim_ok_iff.2 hi⟩
  · obtain ⟨i, hi⟩ := exists_decodeLed (fn := opFunction op) arg (by omega)
    exact ⟨i, elim_ok_iff.2 hi⟩
  · obtain ⟨i, hi⟩ := exists_decodeSw (fn := opFunction op) arg (by omega)
    exact ⟨i, elim_ok_iff.2 hi⟩

/-- Settles O4: R80's list is exactly what the decoder rejects, and the rejection answers ILLEGAL. -/
theorem reservedOpcodesAnswerIllegal : Obligations.ReservedOpcodesAnswerIllegal := by
  unfold Obligations.ReservedOpcodesAnswerIllegal
  intro op arg
  refine ⟨fun hres s => ?reserved, fun hres => ?selected⟩
  case reserved =>
    have hop : reservedOnF (cmdOp (op ++ arg)) = true := by rw [cmdOp_append, hres]
    rw [runCommand_of_reserved hop]
    rfl
  case selected =>
    rw [decode_append]
    exact decodeFields_of_not_reserved arg hres

theorem decodeFields_toBool (op : BitVec 8) (arg : Word32) : (decodeFields op arg).toBool = !reservedOnF op := by
  cases hres : reservedOnF op with
  | true => rw [decodeFields_of_reserved arg hres]; rfl
  | false =>
    obtain ⟨i, hi⟩ := decodeFields_of_not_reserved arg hres
    rw [hi]; rfl

/-- Settles O5: the opcodes that decode are those outside R80's list, and these are counted. -/
theorem thirtyFourOpcodesDecode : Obligations.ThirtyFourOpcodesDecode := by
  unfold Obligations.ThirtyFourOpcodesDecode
  simp only [decodeF, cmdOp_append, cmdArg_append, decodeFields_toBool]
  rfl

/-! ## The same opcode with another operand -/

/-- The instruction with its operand, if its form has one, read from another operand field (R79). -/
def withOperand (arg : Word32) (i : Instr) : Instr :=
  match i with
  | .ledPulse _ => .ledPulse (flagOperand arg)
  | .ledSetshort _ => .ledSetshort (msOperand arg)
  | .ledSetlong _ => .ledSetlong (msOperand arg)
  | .ledSethalf _ => .ledSethalf (msOperand arg)
  | .swSetpin _ => .swSetpin (flagOperand arg)
  | .swSetdebounce _ => .swSetdebounce (msOperand arg)
  | i => i

theorem opcodeOf_withOperand (arg : Word32) (i : Instr) : opcodeOf (withOperand arg i) = opcodeOf i := by
  cases i <;> rfl

theorem mnemonicOf_withOperand (arg : Word32) (i : Instr) : mnemonicOf (withOperand arg i) = mnemonicOf i := by
  cases i <;> rfl

theorem withOperand_of_form_none {i : Instr} (arg : Word32) (hflag : flagFormOp (opcodeOf i) = false)
    (hms : msFormOp (opcodeOf i) = false) : withOperand arg i = i := by
  cases i with
  | ledPulse | swSetpin => cases hflag
  | ledSetshort | ledSetlong | ledSethalf | swSetdebounce => cases hms
  | _ => rfl

theorem decodeRing_map_withOperand (fn : Nat) (arg : Word32) :
    (decodeRing fn).map (withOperand arg) = decodeRing fn := by
  unfold decodeRing
  split <;> rfl

theorem decodeLed_withOperand (fn : Nat) (arg arg' : Word32) :
    decodeLed fn arg' = (decodeLed fn arg).map (withOperand arg') := by
  unfold decodeLed
  split <;> rfl

theorem decodeSw_withOperand (fn : Nat) (arg arg' : Word32) :
    decodeSw fn arg' = (decodeSw fn arg).map (withOperand arg') := by
  unfold decodeSw
  split <;> rfl

theorem elim_map_ok (o : Option Instr) (e : DecodeError) (g : Instr → Instr) :
    (o.map g).elim (.error e) .ok = (o.elim (.error e) .ok : Except DecodeError Instr).map g := by
  cases o <;> rfl

/-- Another operand field changes the operand of what is decoded and nothing else (R85). -/
theorem decodeFields_withOperand (op : BitVec 8) (arg arg' : Word32) :
    decodeFields op arg' = (decodeFields op arg).map (withOperand arg') := by
  unfold decodeFields
  split
  · rw [← elim_map_ok, decodeRing_map_withOperand]
  · rw [← elim_map_ok, ← decodeLed_withOperand]
  · rw [← elim_map_ok, ← decodeSw_withOperand]
  · rfl

/-- Settles O6: without an operand nothing depends on the operand field, and a flag is its bit 0. -/
theorem unreadOperandBitsIgnored : Obligations.UnreadOperandBitsIgnored := by
  unfold Obligations.UnreadOperandBitsIgnored
  intro op arg arg'
  simp only [decode_append]
  refine ⟨fun hflag hms => ?noOperand, fun hflag hbit => ?flag⟩
  case noOperand =>
    rw [decodeFields_withOperand op arg arg']
    cases h : decodeFields op arg with
    | error e => rfl
    | ok i =>
      obtain ⟨-, rfl⟩ := decodeFields_ok h
      rw [Except.map, withOperand_of_form_none arg' hflag hms]
  case flag =>
    have hoperand : flagOperand arg = flagOperand arg' := hbit
    rcases of_decide_eq_true hflag with rfl | rfl
    · exact congrArg (Except.ok ∘ Instr.ledPulse) hoperand
    · exact congrArg (Except.ok ∘ Instr.swSetpin) hoperand

/-- Settles O7: a word with the same opcode decodes to the same operation with its own operand. -/
theorem operationDependsOnOpcodeAlone : Obligations.OperationDependsOnOpcodeAlone := by
  unfold Obligations.OperationDependsOnOpcodeAlone
  intro w w' i hop h
  have hw' : decode (.f w') = .ok (withOperand (cmdArg w') i) := by
    have hw : decodeFields (cmdOp w) (cmdArg w) = .ok i := h
    rw [decode, decodeF, ← hop, decodeFields_withOperand _ (cmdArg w), hw, Except.map]
  obtain ⟨-, hopcode⟩ := decodeFields_ok h
  exact ⟨hopcode, _, hw', opcodeOf_withOperand _ i, mnemonicOf_withOperand _ i⟩

/-- Settles O8: the decoder evaluates each word. -/
theorem sampleWordsDecode : Obligations.SampleWordsDecode :=
  ⟨rfl, rfl, rfl, rfl, rfl, rfl, rfl, rfl⟩

/-! ## A step with one command or none -/

theorem runCommands_singleton (c : Command) (s : State) : runCommands [c] s = runCommand c s := by
  rw [runCommands_cons_eq]
  cases runCommand c s <;> rfl

/-- A step with one command runs it on the state with the step's signals taken (R58, R70). -/
theorem step_of_single {s : State} {e : StepInput} {rest : List StepInput} {c : Command} (h : s.inputs = e :: rest)
    (hrst : e.rst = false) (hc : e.commands = [c]) : step s = runCommand c (s.latch e rest) := by
  rw [step_of_inputs h hrst, hc, runCommands_singleton]

/-- Settles O10: the one command of the step is decoded, or its opcode is reserved. -/
theorem stepRunsForegroundCommand : Obligations.StepRunsForegroundCommand := by
  unfold Obligations.StepRunsForegroundCommand
  intro s e rest w hin hrst hp hf
  have hc : e.commands = [.f w] := by rw [StepInput.commands, hp, hf]
  rw [step_of_single hin hrst hc]
  refine ⟨fun i hi => ?decoded, fun hres => ?reserved⟩
  case decoded => rw [runCommand_of_ok hi]; rfl
  case reserved => rw [runCommand_of_reserved hres]; rfl

/-- Settles O11: the one command of the step is a put, or its word is not a Frame. -/
theorem stepRunsProducerCommand : Obligations.StepRunsProducerCommand := by
  unfold Obligations.StepRunsProducerCommand
  intro s e rest w hin hrst hp hf
  have hc : e.commands = [.p w] := by rw [StepInput.commands, hp, hf]
  rw [step_of_single hin hrst hc]
  refine ⟨fun i hi => ?decoded, fun hlen => ?notAFrame⟩
  case decoded => rw [runCommand_of_ok hi]; rfl
  case notAFrame => rw [runCommand_of_not_frame hlen]

/-- Past the last input a step idles, with clock and pin as they are (log 18). -/
theorem step_of_no_input {s : State} (h : s.inputs = []) : step s = .next { s with resp := none } := by
  have hlatch : s.latch s.idleInput [] = { s with resp := none } := by
    rw [State.latch, State.idleInput, clockSample_of_le _ _ le_rfl, ← h]
  rw [← hlatch]
  simp [step, State.nextInput, h, runInput, State.idleInput, StepInput.commands, runCommands]

/-- Settles O13: with no command a step takes the signals of its input and ends there. -/
theorem idleStepKeepsRegisters : Obligations.IdleStepKeepsRegisters := by
  unfold Obligations.IdleStepKeepsRegisters
  intro s
  refine ⟨step_of_no_input, fun e rest hin hrst hp hf => ⟨s.latch e rest, ?_, rfl, rfl, rfl, rfl, rfl, rfl, rfl, rfl⟩⟩
  have hc : e.commands = [] := by rw [StepInput.commands, hp, hf]
  rw [step_of_inputs hin hrst, hc, runCommands]

end Sys2Proof.Machine

namespace Sys2Proof.Machine

/-! ## When operations of RING answer -/

/-- An index can only be in range of a ring that has cells. -/
theorem capacity_ne_zero_of_lt {capacity i : Index} (h : i.toNat < capacity.toNat) : capacity ≠ 0 := by
  rintro rfl
  exact absurd h (Nat.not_lt_zero _)

/-- A put of a Frame is stopped by nothing but a `head` out of range (R100, R116). -/
theorem exec_put_of_frame {f : Frame} {s : State} (hf : f.len.toNat ≤ 8)
    (hhead : s.capacity ≠ 0 → s.ring.head.toNat < s.capacity.toNat) :
    exec (.ringPut f) s = .next (s.setRing (ringAfter s.capacity s.tUs (.ringPut f) s.ring)) := by
  have hwf : wellFormed (.ringPut f) = true := (frame_wellFormed_iff f).2 hf
  cases h : exec (.ringPut f) s with
  | next t => rw [exec_put_eq_setRing h, exec_ring h]
  | fault r =>
    obtain ⟨-, hc, hge, -⟩ := execRingPut_fault h
    exact absurd (hhead hc) (Nat.not_lt.2 hge)
  | refused r => exact absurd h (exec_ne_refused hwf s r)

/-- A put into a ring with cells stores the frame at `head` and moves the registers (R100). -/
theorem exec_put_of_head_lt {f : Frame} {s : State} (hf : f.len.toNat ≤ 8) (hhead : s.ring.head.toNat < s.capacity.toNat) :
    exec (.ringPut f) s = .next (s.setRing (ringAfterPut s.capacity
      { s.ring with cells := Memory.write s.ring.cells s.ring.head.toNat { frame := f, stamp := s.tUs } })) := by
  rw [exec_put_of_frame hf fun _ => hhead, ringAfter_put_of_ne _ _ _ (capacity_ne_zero_of_lt hhead)]

section

variable {s atNone : State} {withCell : TimedFrame → State}

theorem State.onOldest_of_none (h : s.capacity = 0 ∨ s.ring.size = 0) : s.onOldest atNone withCell = .next atNone :=
  if_pos (s.ringHasNone_iff.2 h)

theorem State.onOldest_of_cell (hs : s.ring.size ≠ 0) (ht : s.ring.tail.toNat < s.capacity.toNat) :
    s.onOldest atNone withCell = .next (withCell (Memory.read s.ring.cells s.ring.tail.toNat)) := by
  have hsome : ¬ s.ringHasNone = true := mt s.ringHasNone_iff.1 (not_or.2 ⟨capacity_ne_zero_of_lt ht, hs⟩)
  rw [State.onOldest, if_neg hsome, State.cellRead_of_lt s _ ht]

end

/-- A query of a register, on a ring without cells and on one with cells (R116). -/
theorem ringQuery_of_zero {s : State} (answer atZero : Word64) (h : s.capacity = 0) :
    ringQuery s answer atZero = .next (s.respondData atZero) := by rw [ringQuery, if_pos h]

theorem ringQuery_of_cells {s : State} (answer atZero : Word64) (h : s.capacity ≠ 0) :
    ringQuery s answer atZero = .next (s.respondData answer) := by rw [ringQuery, if_neg h]

/-! ## The queue as PEEK, GET and PUT see it -/

theorem BlockInv.contents_of_none {s : State} (hs : BlockInv s) (h : s.capacity = 0 ∨ s.ring.size = 0) : s.contents = [] := by
  refine ringContents_of_size_zero s.capacity (h.elim (fun hc => ?_) id)
  obtain ⟨-, -, -, -, hsize, -⟩ := hs.1.1 hc
  exact hsize

/-- The oldest unread frame is the one in cell `tail` (R21 item 7). -/
theorem State.contents_head? {s : State} (hs : s.ring.size ≠ 0) (ht : s.ring.tail.toNat < s.capacity.toNat) :
    s.contents.head? = some (Memory.read s.ring.cells s.ring.tail.toNat) := by
  have hpos : s.ring.size.toNat ≠ 0 := fun h0 => hs (BitVec.toNat_inj.1 h0)
  simp [State.contents, ringContents, List.head?_range, hpos, Nat.mod_eq_of_lt ht]

/-- With the invariant, an operation that looks at the oldest frame asks whether the queue has a first entry. -/
theorem BlockInv.onOldest_eq {s : State} (hs : BlockInv s) (atNone : State) (withCell : TimedFrame → State) :
    s.onOldest atNone withCell = .next (s.contents.head?.elim atNone withCell) := by
  by_cases hnone : s.capacity = 0 ∨ s.ring.size = 0
  · rw [State.onOldest_of_none hnone, hs.contents_of_none hnone]
    rfl
  · obtain ⟨hc, hsize⟩ := not_or.1 hnone
    obtain ⟨-, htail⟩ := hs.head_tail_lt hc
    rw [State.onOldest_of_cell hsize htail, State.contents_head? hsize htail]
    rfl

/-- PEEK and GET answer the oldest entry of the queue, or NONE (R101, R102). -/
theorem exec_peek_get_resp {i : Instr} {s t : State} (hs : BlockInv s) (hi : i = .ringPeek ∨ i = .ringGet)
    (h : exec i s = .next t) : t.resp = some (oldestFrame s.contents) := by
  rcases hi with rfl | rfl
  · cases h.symm.trans ((execRingPeek_eq s).trans (hs.onOldest_eq _ _))
    cases s.contents <;> rfl
  · cases h.symm.trans ((execRingGet_eq s).trans (hs.onOldest_eq _ _))
    cases s.contents <;> rfl

/-- INSERTTIME answers the stamp of the oldest entry of the queue (R103). -/
theorem exec_inserttime_resp {s t : State} {c : TimedFrame} {q : List TimedFrame} (hs : BlockInv s) (hq : s.contents = c :: q)
    (h : exec .ringInserttime s = .next t) : t.resp = some { status := .ok, data := c.stamp, frame := 0 } := by
  cases h.symm.trans ((execRingInserttime_eq s).trans (hs.onOldest_eq _ _))
  rw [hq]
  rfl

/-- Settles O32: the registers move as the queue does, and the answers are those of its oldest entry. -/
theorem ringIsBoundedQueue : Obligations.RingIsBoundedQueue := by
  unfold Obligations.RingIsBoundedQueue
  intro s t i hs h
  refine ⟨exec_contents hs h, ringContents_length t.capacity t.ring, fun hi => exec_peek_get_resp hs hi h, ?_⟩
  rintro rfl c q hq
  exact exec_inserttime_resp hs hq h

/-- A put into a ring with cells appends its frame; only a full ring gives one up for it (R115). -/
theorem exec_put_contents {f : Frame} {s t : State} (hs : BlockInv s) (hc : s.capacity ≠ 0)
    (h : exec (.ringPut f) s = .next t) :
    t.contents = (if s.ring.full then s.contents.tail else s.contents) ++ [{ frame := f, stamp := s.tUs }] := by
  rw [State.contents, exec_capacity h, exec_ring h, ringAfter_put_of_ne _ _ _ hc]
  exact (hs.1.2 hc).shape.contents_put _

/-- Settles O33: the queue after the put ends in the new frame, and what stands before it is read off `full`. -/
theorem putWinsOnFull : Obligations.PutWinsOnFull := by
  unfold Obligations.PutWinsOnFull
  intro s f hs hc hf
  obtain ⟨hhead, -⟩ := hs.head_tail_lt hc
  obtain ⟨t, h⟩ : ∃ t, exec (.ringPut f) s = .next t := ⟨_, exec_put_of_head_lt hf hhead⟩
  have hq := exec_put_contents hs hc h
  refine ⟨t, h, ?size, ?newest, fun hfull => ?full, fun hfull => ?room⟩
  case size =>
    have hlen := congrArg List.length hq
    rw [State.contents, ringContents_length, List.length_append, List.length_singleton] at hlen
    omega
  case newest => rw [hq, List.getLast?_concat]
  case full => rw [hq, List.dropLast_concat, if_pos hfull]
  case room => rw [hq, List.dropLast_concat, hfull, if_neg Bool.false_ne_true]

/-! ## RING.PUT -/

theorem inc32_toNat (c : Word32) : (inc32 c).toNat = (c.toNat + 1) % 2 ^ 32 := BitVec.toNat_add c 1

theorem advance_lt {capacity : Index} (i : Index) (h : capacity ≠ 0) : (advance capacity i).toNat < capacity.toNat := by
  rw [advance_toNat capacity i h]
  exact Nat.mod_lt _ (Nat.pos_of_ne_zero fun h0 => h (BitVec.toNat_inj.1 h0))

/-- No word of port F is a put (R75, R80). -/
theorem decode_f_ne_put (w : CmdWord) (f : Frame) : decode (.f w) ≠ .ok (.ringPut f) := by
  intro h
  obtain ⟨hport, -⟩ := decodeFields_ok h
  cases hport

theorem ringAfterPut_tail_toNat {capacity : Index} (r : RingState) (hc : capacity ≠ 0) :
    (ringAfterPut capacity r).tail.toNat = if r.full then (r.tail.toNat + 1) % capacity.toNat else r.tail.toNat := by
  rw [ringAfterPut_tail, apply_ite BitVec.toNat, advance_toNat _ _ hc]

/-- The fill level counts from the advanced indices, which are in range (R20, R100). -/
theorem ringAfterPut_size_toNat {capacity : Index} {r : RingState} (ht : r.tail.toNat < capacity.toNat) :
    (ringAfterPut capacity r).size.toNat = sizeFormula capacity.toNat (ringAfterPut capacity r).full
      (ringAfterPut capacity r).head.toNat (ringAfterPut capacity r).tail.toNat := by
  have hc := capacity_ne_zero_of_lt ht
  have htail : (ringAfterPut capacity r).tail.toNat < capacity.toNat := by
    rw [ringAfterPut_tail]
    split
    · exact advance_lt _ hc
    · exact ht
  exact sizeOf_toNat _ _ _ _ (advance_lt _ hc) htail

theorem ringAfterPut_overflows_toNat (capacity : Index) (r : RingState) :
    (ringAfterPut capacity r).overflows.toNat = if r.full then (r.overflows.toNat + 1) % 2 ^ 32 else r.overflows.toNat := by
  rw [ringAfterPut_overflows, apply_ite BitVec.toNat, ← inc32_toNat, inc32]

/-- Settles O24: the array by the laws of a cell write, each register by its number after a put. -/
theorem putStoresFrame : Obligations.PutStoresFrame := by
  unfold Obligations.PutStoresFrame
  intro s f hf hhead htail
  have hc := capacity_ne_zero_of_lt hhead
  refine ⟨decode_packFrame ((frame_wellFormed_iff f).2 hf), fun w => decode_f_ne_put w f, _, exec_put_of_head_lt hf hhead,
    ?stored, fun a ha => ⟨?kept, ?read⟩, advance_toNat _ _ hc, ringAfterPut_tail_toNat _ hc, decide_eq_true_iff,
    ringAfterPut_size_toNat htail, maxIndex_toNat _ _, inc32_toNat _, ringAfterPut_overflows_toNat _ _, rfl, rfl⟩
  case stored => exact (Memory.lookup_write _ _ _ _).trans (if_pos rfl)
  case kept => exact (Memory.lookup_write _ _ _ _).trans (if_neg ha)
  case read => exact Memory.read_write_other _ _ _ _ ha

/-! ## RING.PEEK, RING.GET, RING.INSERTTIME and RING.CLEAR -/

/-- Settles O27: PEEK looks at the oldest frame and answers. -/
theorem peekAnswersOldest : Obligations.PeekAnswersOldest := by
  unfold Obligations.PeekAnswersOldest
  intro s arg
  exact ⟨decode_append _ _, fun hnone => State.onOldest_of_none hnone, fun hs ht => State.onOldest_of_cell hs ht⟩

/-- Settles O28: GET looks at the oldest frame, moves the registers and answers. -/
theorem getRemovesOldest : Obligations.GetRemovesOldest := by
  unfold Obligations.GetRemovesOldest
  intro s arg
  refine ⟨decode_append _ _, fun hnone => State.onOldest_of_none hnone, fun hs hh ht => ?_⟩
  have hc := capacity_ne_zero_of_lt ht
  exact ⟨_, State.onOldest_of_cell hs ht, rfl, advance_toNat _ _ hc, rfl, sizeOf_toNat _ _ _ _ hh (advance_lt _ hc),
    inc32_toNat _, rfl, rfl⟩

/-- Settles O29: INSERTTIME looks at the oldest frame, or draws. -/
theorem inserttimeAnswersStamp : Obligations.InserttimeAnswersStamp := by
  unfold Obligations.InserttimeAnswersStamp
  intro s arg
  exact ⟨decode_append _ _, fun hs ht => State.onOldest_of_cell hs ht,
    fun hnone => ⟨Config.freeStamp s.draws, State.onOldest_of_none hnone⟩⟩

/-- Settles O30: the meaning of CLEAR writes these four registers. -/
theorem clearDiscardsFrames : Obligations.ClearDiscardsFrames := by
  unfold Obligations.ClearDiscardsFrames
  exact fun s arg => ⟨decode_append _ _, rfl⟩

/-! ## The queries -/

theorem boolData_ringIsEmpty (r : RingState) :
    boolData (ringIsEmpty r) = if r.size = 0 ∧ r.full = false then 1 else 0 := by
  simp [boolData, ringIsEmpty]

theorem boolData_ringIsAvailable (r : RingState) :
    boolData (ringIsAvailable r) = if 0 < r.size.toNat then 1 else 0 := by
  simp only [boolData, ringIsAvailable, decide_eq_true_iff]

/-- `FreeSlots` does not wrap where the fill level is in range (R22). -/
theorem ringFreeSlots_toNat {capacity : Index} {r : RingState} (h : r.size.toNat ≤ capacity.toNat) :
    (ringFreeSlots capacity r).toNat = capacity.toNat - r.size.toNat := BitVec.toNat_sub_of_le h

/-- Settles O31: each query answers its register or flag. -/
theorem ringQueriesAnswer : Obligations.RingQueriesAnswer := by
  unfold Obligations.RingQueriesAnswer
  intro s arg hc hle
  refine ⟨⟨decode_append _ _, decode_append _ _, decode_append _ _, decode_append _ _, decode_append _ _, decode_append _ _,
    decode_append _ _, decode_append _ _, decode_append _ _⟩, ringFreeSlots s.capacity s.ring, ringFreeSlots_toNat hle,
    ringQuery_of_cells _ _ hc, ?empty, ringQuery_of_cells _ _ hc, ?available, ringQuery_of_cells _ _ hc,
    ringQuery_of_cells _ _ hc, rfl, rfl, rfl⟩
  case empty => rw [← boolData_ringIsEmpty]; exact ringQuery_of_cells _ _ hc
  case available => rw [← boolData_ringIsAvailable]; exact ringQuery_of_cells _ _ hc

/-! ## A ring without cells -/

/-- Settles O25: a put is lost and counted, no frame is found, and a query answers its constant (R116). -/
theorem ringWithoutCells : Obligations.RingWithoutCells := by
  unfold Obligations.RingWithoutCells
  intro s hc
  refine ⟨fun f hf => ?put, State.onOldest_of_none (.inl hc), State.onOldest_of_none (.inl hc),
    ⟨Config.freeStamp s.draws, State.onOldest_of_none (.inl hc)⟩, rfl, ringQuery_of_zero _ _ hc, ringQuery_of_zero _ _ hc,
    ringQuery_of_zero _ _ hc, ringQuery_of_zero _ _ hc, ringQuery_of_zero _ _ hc, ringQuery_of_zero _ _ hc, rfl, rfl, rfl⟩
  rw [exec_put_of_frame hf fun hne => absurd hc hne, ringAfter_put_of_zero _ _ _ hc]
  rfl

end Sys2Proof.Machine

namespace Sys2Proof.Machine

/-! ## The clock in milliseconds -/

theorem State.nowMillis_eq_millisOf (s : State) : s.nowMillis = millisOf s.tUs :=
  BitVec.eq_of_toNat_eq (s.nowMillis_toNat.trans (BitVec.toNat_ofNat _ _).symm)

/-! ## LED.RUN in each mode (R136) -/

section

variable {l : LedState} (now : Word32)

theorem ledAfterRun_of_steady (h : l.mode = .off ∨ l.mode = .on) : ledAfterRun l now = l := by
  rcases h with h | h <;> rw [ledAfterRun, h]

theorem ledAfterRun_of_blink (hm : l.mode = .blink) : ledAfterRun l now = ledAfterBlinkRun l now := by
  rw [ledAfterRun, hm]

theorem ledAfterRun_of_fresh (hm : l.mode = .blink) (hf : l.fresh = true) :
    ledAfterRun l now = { l with level := true, phaseStart := now, fresh := false } :=
  (ledAfterRun_of_blink now hm).trans (if_pos hf)

theorem ledAfterRun_of_blinking (hm : l.mode = .blink) (hf : l.fresh = false) :
    ledAfterRun l now =
      if elapsedAtLeast l.halfPeriod l.phaseStart now then { l with level := !l.level, phaseStart := now } else l :=
  (ledAfterRun_of_blink now hm).trans (if_neg (by simp [hf]))

theorem ledAfterRun_of_pulse (hm : l.mode = .pulse) :
    ledAfterRun l now =
      if elapsedAtLeast l.pulseDur l.pulseStart now then { l with level := false, mode := .off } else l := by
  rw [ledAfterRun, hm]
  rfl

end

/-! ## The LED up to its configuration

The SET commands write the three configuration registers and nothing else (R138 to R140), and no run reads these. So over steps that
leave pulses and blinks to LED.RUN the LED stays the same up to its configuration until a run makes a transition. -/

/-- The LED with other values in its configuration registers. -/
def LedState.withConfig (l : LedState) (short long half : Word32) : LedState :=
  { l with cfgShort := short, cfgLong := long, cfgHalf := half }

/-- Two LEDs that differ in the configuration registers at most. -/
def SameButConfig (l l' : LedState) : Prop := ∃ short long half, l' = l.withConfig short long half

theorem SameButConfig.refl (l : LedState) : SameButConfig l l := ⟨l.cfgShort, l.cfgLong, l.cfgHalf, rfl⟩

theorem SameButConfig.trans {l l' l'' : LedState} (h : SameButConfig l l') (h' : SameButConfig l' l'') :
    SameButConfig l l'' := by
  obtain ⟨_, _, _, rfl⟩ := h
  obtain ⟨short, long, half, rfl⟩ := h'
  exact ⟨short, long, half, rfl⟩

/-- The registers that a pulse or a blink lives in. -/
theorem SameButConfig.registers {l l' : LedState} (h : SameButConfig l l') :
    l'.mode = l.mode ∧ l'.level = l.level ∧ l'.fresh = l.fresh ∧ l'.phaseStart = l.phaseStart
      ∧ l'.halfPeriod = l.halfPeriod := by
  obtain ⟨_, _, _, rfl⟩ := h
  exact ⟨rfl, rfl, rfl, rfl, rfl⟩

/-- A run neither reads nor writes the configuration. -/
theorem ledAfterRun_withConfig (l : LedState) (short long half now : Word32) :
    ledAfterRun (l.withConfig short long half) now = (ledAfterRun l now).withConfig short long half := by
  have hmode : (l.withConfig short long half).mode = l.mode := rfl
  have hfresh : (l.withConfig short long half).fresh = l.fresh := rfl
  cases hm : l.mode with
  | off => rw [ledAfterRun_of_steady now (.inl hm), ledAfterRun_of_steady now (.inl (hmode.trans hm))]
  | on => rw [ledAfterRun_of_steady now (.inr hm), ledAfterRun_of_steady now (.inr (hmode.trans hm))]
  | blink =>
    cases hf : l.fresh with
    | true =>
      rw [ledAfterRun_of_fresh now hm hf, ledAfterRun_of_fresh now (hmode.trans hm) (hfresh.trans hf)]
      rfl
    | false =>
      rw [ledAfterRun_of_blinking now hm hf, ledAfterRun_of_blinking now (hmode.trans hm) (hfresh.trans hf),
        apply_ite (LedState.withConfig · short long half)]
      rfl
  | pulse =>
    rw [ledAfterRun_of_pulse now hm, ledAfterRun_of_pulse now (hmode.trans hm),
      apply_ite (LedState.withConfig · short long half)]
    rfl

theorem SameButConfig.run {l l' : LedState} (h : SameButConfig l l') (now : Word32) :
    SameButConfig (ledAfterRun l now) (ledAfterRun l' now) := by
  obtain ⟨short, long, half, rfl⟩ := h
  exact ⟨short, long, half, ledAfterRun_withConfig l short long half now⟩

/-! ## What a step does to LED and SW -/

/-- What one operation of the foreground, or none, does to a state as far as LED and SW are concerned. -/
structure PanelStep (op : Option Instr) (s t : State) : Prop where
  tUs : t.tUs = s.tUs
  pinSw : t.pinSw = s.pinSw
  inputs : t.inputs = s.inputs
  led : t.led = op.elim s.led (ledAfter s.nowMillis · s.led)
  sw : t.sw = op.elim s.sw (swAfter s.pinSw s.nowMillis · s.sw)

theorem exec_panelStep {i : Instr} {s t : State} (h : exec i s = .next t) : PanelStep (some i) s t where
  tUs := exec_tUs h
  pinSw := by rw [exec_frame h]
  inputs := by rw [exec_frame h]
  led := exec_led h
  sw := exec_sw h

theorem PanelStep.refl (s : State) : PanelStep none s s := ⟨rfl, rfl, rfl, rfl, rfl⟩

/-- What touches neither LED nor SW can come before an operation, or after it. -/
theorem PanelStep.after_none {op : Option Instr} {s u t : State} (h : PanelStep none s u) (h' : PanelStep op u t) :
    PanelStep op s t := by
  have hnow : u.nowMillis = s.nowMillis := by rw [State.nowMillis, h.tUs, State.nowMillis]
  obtain ⟨htUs, hpin, hin, hled, hsw⟩ := h'
  rw [h.led, hnow] at hled
  rw [h.sw, h.pinSw, hnow] at hsw
  exact ⟨htUs.trans h.tUs, hpin.trans h.pinSw, hin.trans h.inputs, hled, hsw⟩

theorem PanelStep.before_none {op : Option Instr} {s u t : State} (h : PanelStep op s u) (h' : PanelStep none u t) :
    PanelStep op s t :=
  ⟨h'.tUs.trans h.tUs, h'.pinSw.trans h.pinSw, h'.inputs.trans h.inputs, h'.led.trans h.led, h'.sw.trans h.sw⟩

/-- Port P brings puts, and these touch neither LED nor SW (R203). -/
theorem runCommand_p_panelStep {w : FrameWord} {s t : State} (h : runCommand (.p w) s = .next t) : PanelStep none s t := by
  rcases runCommand_cases h with ⟨i, hi, hexec⟩ | ⟨op, -, rfl⟩
  · obtain rfl := decodeP_eq_put hi
    obtain ⟨htUs, hpin, hin, hled, hsw⟩ := exec_panelStep hexec
    exact ⟨htUs, hpin, hin, hled, hsw⟩
  · exact ⟨rfl, rfl, rfl, rfl, rfl⟩

theorem StepInput.foreground_of_ok {e : StepInput} {w : CmdWord} {i : Instr} (hf : e.f = some w)
    (hi : decode (.f w) = .ok i) : e.foreground = some i := by
  rw [StepInput.foreground, hf]
  simp only [hi]

theorem StepInput.foreground_of_error {e : StepInput} {w : CmdWord} {r : DecodeError} (hf : e.f = some w)
    (hr : decode (.f w) = .error r) : e.foreground = none := by
  rw [StepInput.foreground, hf]
  simp only [hr]

theorem StepInput.foreground_of_none {e : StepInput} (hf : e.f = none) : e.foreground = none := by
  rw [StepInput.foreground, hf]

/-- The port F command of a step runs the step's foreground operation, or answers ILLEGAL. -/
theorem runCommand_f_panelStep {e : StepInput} {w : CmdWord} {s t : State} (hf : e.f = some w)
    (h : runCommand (.f w) s = .next t) : PanelStep e.foreground s t := by
  rcases runCommand_cases h with ⟨i, hi, hexec⟩ | ⟨op, hop, rfl⟩
  · rw [StepInput.foreground_of_ok hf hi]
    exact exec_panelStep hexec
  · rw [StepInput.foreground_of_error hf hop]
    exact ⟨rfl, rfl, rfl, rfl, rfl⟩

theorem andThen_eq_next {r : Result} {g : State → Result} {t : State} (h : andThen r g = .next t) :
    ∃ u, r = .next u ∧ g u = .next t := by
  cases r with
  | next u => exact ⟨u, rfl, h⟩
  | fault | refused => cases h

/-- A step without reset does to LED and SW what its foreground operation does, on whichever side of it a put comes (R58, R59). -/
theorem step_panelStep {s t : State} {e : StepInput} {rest : List StepInput} (hin : s.inputs = e :: rest)
    (hrst : e.rst = false) (h : step s = .next t) : PanelStep e.foreground (s.latch e rest) t := by
  cases hp : e.p with
  | none =>
    cases hf : e.f with
    | none =>
      rw [step_of_inputs hin hrst, StepInput.commands, hp, hf] at h
      cases h
      rw [StepInput.foreground_of_none hf]
      exact .refl _
    | some w =>
      rw [step_of_single hin hrst (c := .f w) (by rw [StepInput.commands, hp, hf])] at h
      exact runCommand_f_panelStep hf h
  | some wp =>
    cases hf : e.f with
    | none =>
      rw [step_of_single hin hrst (c := .p wp) (by rw [StepInput.commands, hp, hf])] at h
      rw [StepInput.foreground_of_none hf]
      exact runCommand_p_panelStep h
    | some w =>
      rw [step_of_both hin hrst hp hf] at h
      split at h <;> obtain ⟨u, hfirst, hsecond⟩ := andThen_eq_next h
      · exact (runCommand_p_panelStep hfirst).after_none (runCommand_f_panelStep hf hsecond)
      · exact (runCommand_f_panelStep hf hfirst).before_none (runCommand_p_panelStep hsecond)

/-! ## Runs that leave pulses and blinks to LED.RUN -/

theorem ledQuiet_rst {e : StepInput} (h : ledQuiet e = true) : e.rst = false := by
  rw [ledQuiet, Bool.and_eq_true, Bool.not_eq_true'] at h
  obtain ⟨hrst, -⟩ := h
  exact hrst

theorem isLedRun_iff (e : StepInput) : isLedRun e = true ↔ e.rst = false ∧ e.foreground = some .ledRun := by
  simp [isLedRun]

/-- A quiet step that issues no run writes the configuration at most. -/
theorem ledAfter_of_quiet {e : StepInput} (hquiet : ledQuiet e = true) (hrun : isLedRun e = false) (now : Word32)
    (l : LedState) : SameButConfig l (e.foreground.elim l (ledAfter now · l)) := by
  have hrst := ledQuiet_rst hquiet
  cases hop : e.foreground with
  | none => exact .refl l
  | some i =>
    cases i with
    | ledSetpin | ledOn | ledOff | ledToggle | ledBlink | ledPulse => simp [ledQuiet, hop] at hquiet
    | ledRun => simp [isLedRun, hop, hrst] at hrun
    | ledSetshort ms => exact ⟨ms, l.cfgLong, l.cfgHalf, rfl⟩
    | ledSetlong ms => exact ⟨l.cfgShort, ms, l.cfgHalf, rfl⟩
    | ledSethalf ms => exact ⟨l.cfgShort, l.cfgLong, ms, rfl⟩
    | _ => exact .refl l

/-- A step that issues LED.RUN, on an LED known up to its configuration. -/
theorem step_of_ledRun {s t : State} {l : LedState} {e : StepInput} {rest : List StepInput} (hin : s.inputs = e :: rest)
    (hrun : isLedRun e = true) (hl : SameButConfig l s.led) (h : step s = .next t) :
    SameButConfig (ledAfterRun l (millisOf (clockSample s.tUs e.tUs))) t.led ∧ t.inputs = rest
      ∧ t.tUs = clockSample s.tUs e.tUs := by
  obtain ⟨hrst, hop⟩ := (isLedRun_iff e).1 hrun
  obtain ⟨htUs, -, hinputs, hled, -⟩ := step_panelStep hin hrst h
  rw [hop, State.nowMillis_eq_millisOf] at hled
  exact ⟨hled ▸ hl.run _, hinputs, htUs⟩

/-- What the inputs of a run without transition pass: they are quiet, and a run at such a time leaves the LED `l` as it is. -/
def NoTransition (l : LedState) (test : StepInput → Word32 → Bool) : Prop :=
  ∀ e now, test e now = true → ledQuiet e = true ∧ (isLedRun e = true → ledAfterRun l now = l)

theorem step_of_noTransition {s t : State} {l : LedState} {test : StepInput → Word32 → Bool} {e : StepInput}
    {rest : List StepInput} (htest : NoTransition l test) (hin : s.inputs = e :: rest)
    (hpass : test e (millisOf (clockSample s.tUs e.tUs)) = true) (hl : SameButConfig l s.led) (h : step s = .next t) :
    SameButConfig l t.led ∧ t.inputs = rest ∧ t.tUs = clockSample s.tUs e.tUs := by
  obtain ⟨hquiet, hstay⟩ := htest e _ hpass
  cases hrun : isLedRun e with
  | true =>
    have hstep := step_of_ledRun hin hrun hl h
    rwa [hstay hrun] at hstep
  | false =>
    obtain ⟨htUs, -, hinputs, hled, -⟩ := step_panelStep hin (ledQuiet_rst hquiet) h
    exact ⟨hl.trans (hled ▸ ledAfter_of_quiet hquiet hrun _ _), hinputs, htUs⟩

theorem runSteps_succ (k : Nat) (s : State) : runSteps (k + 1) s = andThen (step s) (runSteps k) := by
  rw [runSteps]
  cases step s <;> rfl

theorem runSteps_add (m n : Nat) (s : State) : runSteps (m + n) s = andThen (runSteps m s) (runSteps n) := by
  induction m generalizing s with
  | zero => rw [Nat.zero_add, runSteps, andThen]
  | succ m ih =>
    rw [Nat.add_right_comm, runSteps_succ, runSteps_succ]
    cases step s with
    | next u => exact ih u
    | fault | refused => rfl

/-- Over inputs without transition the LED stays the same up to its configuration, step by step. -/
theorem runSteps_of_noTransition {l : LedState} {test : StepInput → Word32 → Bool} (htest : NoTransition l test)
    {later : List StepInput} (k : Nat) {s t : State} {es : List StepInput} (hin : s.inputs = es ++ later)
    (hpass : allSamples test s.tUs es = true) (hl : SameButConfig l s.led) (hk : k ≤ es.length)
    (h : runSteps k s = .next t) :
    SameButConfig l t.led ∧ t.inputs = es.drop k ++ later ∧ t.tUs = clockAfter s.tUs (es.take k) := by
  induction k generalizing s es with
  | zero => cases h; exact ⟨hl, hin, rfl⟩
  | succ k ih =>
    cases es with
    | nil => exact absurd hk (Nat.not_succ_le_zero k)
    | cons e es =>
      rw [allSamples, Bool.and_eq_true] at hpass
      obtain ⟨hfirst, hothers⟩ := hpass
      rw [runSteps_succ] at h
      obtain ⟨u, hstep, h⟩ := andThen_eq_next h
      obtain ⟨hlu, hinu, htUs⟩ := step_of_noTransition htest hin hfirst hl hstep
      rw [← htUs] at hothers
      have hrest := ih hinu hothers hlu (Nat.le_of_succ_le_succ hk) h
      rwa [htUs] at hrest

/-- The run that follows inputs without transition acts on the LED as it was before them, up to its configuration. -/
theorem runSteps_to_ledRun {l : LedState} {test : StepInput → Word32 → Bool} (htest : NoTransition l test) {s t : State}
    {es rest : List StepInput} {e : StepInput} (hin : s.inputs = es ++ e :: rest)
    (hpass : allSamples test s.tUs es = true) (hrun : isLedRun e = true) (hl : SameButConfig l s.led)
    (h : runSteps (es.length + 1) s = .next t) :
    SameButConfig (ledAfterRun l (millisOf (clockSample (clockAfter s.tUs es) e.tUs))) t.led ∧ t.inputs = rest
      ∧ t.tUs = clockSample (clockAfter s.tUs es) e.tUs := by
  rw [runSteps_add] at h
  obtain ⟨u, hbefore, hlast⟩ := andThen_eq_next h
  rw [runSteps_succ] at hlast
  obtain ⟨v, hstep, hv⟩ := andThen_eq_next hlast
  obtain ⟨hlu, hinu, htUs⟩ := runSteps_of_noTransition htest _ hin hpass hl le_rfl hbefore
  rw [List.drop_length, List.nil_append] at hinu
  rw [List.take_length] at htUs
  cases hv
  rw [← htUs]
  exact step_of_ledRun hinu hrun hlu hstep

/-! ## Pulse and blink timing -/

theorem noTransition_of_pulse {l : LedState} (hm : l.mode = .pulse) :
    NoTransition l fun x now => ledQuiet x && !(isLedRun x && elapsedAtLeast l.pulseDur l.pulseStart now) := by
  intro e now h
  simp only [Bool.and_eq_true, Bool.not_eq_true', Bool.and_eq_false_imp] at h
  obtain ⟨hquiet, hearly⟩ := h
  exact ⟨hquiet, fun hrun => by rw [ledAfterRun_of_pulse now hm, hearly hrun, if_neg Bool.false_ne_true]⟩

theorem noTransition_of_blinking {l : LedState} (hm : l.mode = .blink) (hf : l.fresh = false) :
    NoTransition l fun x now => ledQuiet x && !(isLedRun x && elapsedAtLeast l.halfPeriod l.phaseStart now) := by
  intro e now h
  simp only [Bool.and_eq_true, Bool.not_eq_true', Bool.and_eq_false_imp] at h
  obtain ⟨hquiet, hearly⟩ := h
  exact ⟨hquiet, fun hrun => by rw [ledAfterRun_of_blinking now hm hf, hearly hrun, if_neg Bool.false_ne_true]⟩

theorem noTransition_without_run (l : LedState) : NoTransition l fun x _ => ledQuiet x && !isLedRun x := by
  intro e now h
  simp only [Bool.and_eq_true, Bool.not_eq_true'] at h
  obtain ⟨hquiet, hnone⟩ := h
  exact ⟨hquiet, fun hrun => absurd (hnone.symm.trans hrun) Bool.false_ne_true⟩

theorem noTransition_of_steady {l : LedState} (hm : l.mode = .off ∨ l.mode = .on) :
    NoTransition l fun x _ => ledQuiet x :=
  fun _ now hquiet => ⟨hquiet, fun _ => ledAfterRun_of_steady now hm⟩

/-- Settles O46: up to the configuration the LED is that of the command until the first due run, which leaves it dark in OFF, where
no run changes it. -/
theorem pulseTiming : Obligations.PulseTiming := by
  unfold Obligations.PulseTiming
  intro s s' short es later hpulse hin hearly
  have hled := exec_led hpulse
  rw [State.nowMillis_eq_millisOf] at hled
  have hmode : s.led.mode = .pulse := congrArg LedState.mode hled
  have hlevel : s.led.level = true := congrArg LedState.level hled
  have hstart : s.led.pulseStart = millisOf s'.tUs := congrArg LedState.pulseStart hled
  rw [← hstart] at hearly ⊢
  have hlit := noTransition_of_pulse hmode
  refine ⟨congrArg LedState.pulseDur hled, fun k hk t h => ?lit, fun e es' rest hlater hrun hdue hquiet k hk t h => ?dark⟩
  case lit =>
    obtain ⟨hl, -⟩ := runSteps_of_noTransition hlit k hin hearly (.refl _) hk h
    obtain ⟨-, hkept, -⟩ := hl.registers
    exact hkept.trans hlevel
  case dark =>
    rw [hlater] at hin
    rw [runSteps_add] at h
    obtain ⟨u, hended, h⟩ := andThen_eq_next h
    obtain ⟨hl, hinu, htUs⟩ := runSteps_to_ledRun hlit hin hearly hrun (.refl _) hended
    rw [ledAfterRun_of_pulse _ hmode, if_pos hdue] at hl
    rw [← htUs] at hquiet
    obtain ⟨hdark, -⟩ := runSteps_of_noTransition (noTransition_of_steady (.inl rfl)) k hinu hquiet hl hk h
    obtain ⟨-, hlevel', -⟩ := hdark.registers
    exact hlevel'

/-- Settles O47: the LED stays the same up to its configuration until the run, and this run lights a fresh blink or inverts a due
one. -/
theorem blinkTiming : Obligations.BlinkTiming := by
  unfold Obligations.BlinkTiming
  intro s t es rest e hmode hin hrun h
  refine ⟨fun hfresh hnone => ?first, fun hfresh hearly hdue => ⟨fun k hk u hu => ?phase, ?next⟩⟩
  case first =>
    obtain ⟨hl, -⟩ := runSteps_to_ledRun (noTransition_without_run s.led) hin hnone hrun (.refl _) h
    rw [ledAfterRun_of_fresh _ hmode hfresh] at hl
    obtain ⟨hm, hlevel, hf, hstart, hhalf⟩ := hl.registers
    exact ⟨hm.trans hmode, hlevel, hf, hhalf, hstart⟩
  case phase =>
    obtain ⟨hl, -⟩ := runSteps_of_noTransition (noTransition_of_blinking hmode hfresh) k hin hearly (.refl _) hk hu
    obtain ⟨-, hlevel, -, hstart, -⟩ := hl.registers
    exact ⟨hlevel, hstart⟩
  case next =>
    obtain ⟨hl, -⟩ := runSteps_to_ledRun (noTransition_of_blinking hmode hfresh) hin hearly hrun (.refl _) h
    rw [ledAfterRun_of_blinking _ hmode hfresh, if_pos hdue] at hl
    obtain ⟨hm, hlevel, hf, hstart, hhalf⟩ := hl.registers
    exact ⟨hm.trans hmode, hlevel, hf.trans hfresh, hhalf, hstart⟩

/-! ## The mode table -/

theorem modeOfLevel_not (level : Bool) : modeOfLevel (!level) = if level then .off else .on := by
  cases level <;> rfl

/-- Settles O45: one row of the table per command, the columns of TOGGLE and RUN by the mode before. -/
theorem ledModeTable : Obligations.LedModeTable := by
  unfold Obligations.LedModeTable
  intro s t i hinv h
  have hled := exec_led h
  rw [State.nowMillis_eq_millisOf] at hled
  obtain ⟨hoff, hon, hpulse, -⟩ := hinv
  rw [hled]
  refine ⟨?setpinOff, ?on, ?toggle, ?blink, ?pulse, ?run, ?keep⟩
  case setpinOff => rintro (rfl | rfl) <;> exact ⟨rfl, rfl⟩
  case on => rintro rfl; exact ⟨rfl, rfl⟩
  case toggle =>
    rintro rfl
    have hlit (hl : s.led.level = true) :
        modeOfLevel (!s.led.level) = .off ∧ (!s.led.level) = false := by rw [hl]; exact ⟨rfl, rfl⟩
    have hdark (hl : s.led.level = false) :
        modeOfLevel (!s.led.level) = .on ∧ (!s.led.level) = true := by rw [hl]; exact ⟨rfl, rfl⟩
    exact ⟨fun hm => hdark (hoff hm), fun hm => hlit (hm.elim hon hpulse), fun _ => hdark, fun _ => hlit⟩
  case blink => rintro rfl; exact ⟨rfl, rfl, rfl⟩
  case pulse => rintro short rfl; exact ⟨rfl, rfl, rfl⟩
  case run =>
    rintro rfl
    rw [ledAfter]
    refine ⟨fun hm => ?fromOff, fun hm => ?fromOn, fun hm => ⟨?stays, ?level⟩, fun hm => ?fromPulse⟩
    case fromOff => rw [ledAfterRun_of_steady _ (.inl hm)]; exact ⟨hm, hoff hm⟩
    case fromOn => rw [ledAfterRun_of_steady _ (.inr hm)]; exact ⟨hm, hon hm⟩
    case stays => rw [ledAfterRun_mode _ (by simp [hm]), hm]
    case level =>
      cases hf : s.led.fresh with
      | true => rw [ledAfterRun_of_fresh _ hm hf, if_pos rfl]
      | false => rw [ledAfterRun_of_blinking _ hm hf, if_neg Bool.false_ne_true, apply_ite LedState.level]
    case fromPulse =>
      rw [ledAfterRun_of_pulse _ hm]
      split
      · exact ⟨rfl, rfl⟩
      · exact ⟨hm, hpulse hm⟩
  case keep => rintro (rfl | ⟨ms, rfl | rfl | rfl⟩) <;> exact ⟨rfl, rfl⟩

/-! ## The words and the whole effect of each command -/

/-- Settles O41: each meaning writes these registers; the mode after a toggle goes with the inverted level. -/
theorem ledImmediateCommands : Obligations.LedImmediateCommands := by
  unfold Obligations.LedImmediateCommands
  intro s arg
  refine ⟨⟨decode_append _ _, rfl⟩, ⟨decode_append _ _, rfl⟩, ⟨decode_append _ _, rfl⟩, decode_append _ _, ?_⟩
  rw [← modeOfLevel_not]
  rfl

/-- Settles O42: a blink does not read the clock, a pulse starts at the clock in milliseconds. -/
theorem ledTimedCommands : Obligations.LedTimedCommands := by
  unfold Obligations.LedTimedCommands
  intro s arg
  refine ⟨⟨decode_append _ _, rfl⟩, decode_append _ _, fun short => ?_⟩
  rw [← State.nowMillis_eq_millisOf]
  rfl

/-- Settles O43: the registers after the run, in each mode. -/
theorem ledRunPerformsTimedTransitions : Obligations.LedRunPerformsTimedTransitions := by
  unfold Obligations.LedRunPerformsTimedTransitions
  intro s arg
  rw [← State.nowMillis_eq_millisOf]
  exact ⟨decode_append _ _, ledAfterRun s.led s.nowMillis, rfl, ledAfterRun_of_steady _, ledAfterRun_of_fresh _,
    ledAfterRun_of_blinking _, ledAfterRun_of_pulse _⟩

/-- Settles O44: GETSTATE reads the level, and the meaning of each SET command writes its one register. -/
theorem ledQueryAndConfiguration : Obligations.LedQueryAndConfiguration := by
  unfold Obligations.LedQueryAndConfiguration
  exact fun s arg => ⟨⟨decode_append _ _, rfl⟩, ⟨decode_append _ _, rfl⟩, ⟨decode_append _ _, rfl⟩, decode_append _ _, rfl⟩

end Sys2Proof.Machine

namespace Sys2Proof.Machine

/-! ## SW.RUN by its sample (R161) -/

/-- The registers of SW in an interval of differing samples that began at `start`. -/
def SwState.differingSince (w : SwState) (start : Word32) : SwState :=
  { w with raw := !w.stable, mismatchStart := start }

section

variable {w : SwState} {sample : Bool} (now : Word32)

theorem mismatchFrom_of_equal (h : w.raw = w.stable) : mismatchFrom w now = now :=
  if_neg (by simp [h])

theorem mismatchFrom_of_differing (h : w.raw ≠ w.stable) : mismatchFrom w now = w.mismatchStart :=
  if_pos (bne_iff_ne.2 h)

theorem mismatchFrom_eq (w : SwState) : mismatchFrom w now = if w.raw = w.stable then now else w.mismatchStart := by
  split
  · exact mismatchFrom_of_equal now ‹_›
  · exact mismatchFrom_of_differing now ‹_›

theorem swAfterRun_of_equal (h : sample = w.stable) : swAfterRun w sample now = { w with raw := w.stable } := by
  subst h
  exact if_neg (by simp)

theorem swAfterRun_of_differing (h : sample ≠ w.stable) :
    swAfterRun w sample now =
      if elapsedAtLeast w.debounceMs (mismatchFrom w now) now then
        swAfterFlip (w.differingSince (mismatchFrom w now)) (!w.stable) now
      else w.differingSince (mismatchFrom w now) := by
  obtain rfl : sample = !w.stable := Bool.eq_not.2 h
  exact if_pos (bne_iff_ne.2 h)

/-- A differing run flips exactly if the interval has lasted for the debounce time. -/
theorem swAfterRun_flips_iff (h : sample ≠ w.stable) :
    (swAfterRun w sample now).stable ≠ w.stable ↔ elapsedAtLeast w.debounceMs (mismatchFrom w now) now = true := by
  rw [swAfterRun_of_differing now h]
  split
  next hdue => exact iff_of_true (Bool.not_ne_self _) hdue
  next hearly => exact iff_of_false (fun hne => hne rfl) hearly

end

/-- Settles O51: an equal sample, and a differing one by whether the interval has lasted for the debounce time. -/
theorem swRunDebounces : Obligations.SwRunDebounces := by
  unfold Obligations.SwRunDebounces
  intro s arg
  refine ⟨decode_append _ _, _, rfl, swAfterRun_of_equal s.nowMillis, fun hne => ?differing⟩
  case differing =>
    have hrun := swAfterRun_of_differing s.nowMillis hne
    rw [mismatchFrom_eq, State.nowMillis_eq_millisOf] at hrun
    exact ⟨fun hearly => hrun.trans (if_neg (by simp [hearly])), fun hdue => hrun.trans (if_pos hdue)⟩

/-! ## The words and the whole effect of the other operations of SW -/

/-- Settles O50: each meaning writes its registers, and the pulls read the polarity. -/
theorem swCommandsWriteTheirRegisters : Obligations.SwCommandsWriteTheirRegisters := by
  unfold Obligations.SwCommandsWriteTheirRegisters
  intro s arg
  rw [← State.nowMillis_eq_millisOf]
  refine ⟨decode_append _ _, fun pol => ⟨_, rfl, rfl, ?up, ?down⟩, ⟨decode_append _ _, rfl⟩, decode_append _ _, rfl⟩
  case up => exact Bool.true_and _
  case down => exact Bool.true_and _

theorem boolData_not (b : Bool) : boolData (!b) = if b then 0 else 1 := by
  cases b <;> rfl

/-- Settles O52: each query answers its number; "pressed" is the stored level inverted. -/
theorem swQueriesAnswer : Obligations.SwQueriesAnswer := by
  unfold Obligations.SwQueriesAnswer
  intro s arg
  rw [← boolData_not, ← State.nowMillis_eq_millisOf]
  exact ⟨⟨decode_append _ _, rfl⟩, ⟨decode_append _ _, rfl⟩, ⟨decode_append _ _, rfl⟩, ⟨decode_append _ _, rfl⟩,
    decode_append _ _, rfl⟩

/-- Settles O53: the answer is the flag as it was, and a second query finds it cleared. -/
theorem statechangedReadsAndClears : Obligations.StatechangedReadsAndClears := by
  unfold Obligations.StatechangedReadsAndClears
  exact fun s arg => ⟨decode_append _ _, _, rfl, rfl, rfl⟩

/-! ## Flips -/

/-- No flip from `w` to `w'`, nor what R161 records at one; the flag is not looked at. -/
structure SwUnflipped (w w' : SwState) : Prop where
  stable : w'.stable = w.stable
  lastStateDuration : w'.lastStateDuration = w.lastStateDuration
  lastChangeTime : w'.lastChangeTime = w.lastChangeTime

/-- A flip at `now` from `w` to `w'`, with what R161 records. -/
structure SwFlipped (now : Word32) (w w' : SwState) : Prop where
  stable : w'.stable ≠ w.stable
  raw : w'.raw = w'.stable
  lastStateDuration : w'.lastStateDuration = now - w.currentStateStart
  currentStateStart : w'.currentStateStart = now
  lastChangeTime : w'.lastChangeTime = now
  changed : w'.changed = true

theorem SwUnflipped.refl (w : SwState) : SwUnflipped w w := ⟨rfl, rfl, rfl⟩

theorem swAfterRun_cases (w : SwState) (sample : Bool) (now : Word32) :
    (SwUnflipped w (swAfterRun w sample now) ∧ (swAfterRun w sample now).changed = w.changed)
      ∨ SwFlipped now w (swAfterRun w sample now) := by
  by_cases h : sample = w.stable
  · rw [swAfterRun_of_equal now h]
    exact .inl ⟨⟨rfl, rfl, rfl⟩, rfl⟩
  · rw [swAfterRun_of_differing now h]
    split
    · exact .inr ⟨Bool.not_ne_self _, rfl, rfl, rfl, rfl, rfl⟩
    · exact .inl ⟨⟨rfl, rfl, rfl⟩, rfl⟩

/-- Without a flip an operation leaves the flag, but STATECHANGED clears it. -/
theorem swAfter_cases (pin : Bool) (now : Word32) (i : Instr) (w : SwState) :
    (SwUnflipped w (swAfter pin now i w)
        ∧ ((swAfter pin now i w).changed = w.changed ∨ i = .swStatechanged ∧ (swAfter pin now i w).changed = false))
      ∨ SwFlipped now w (swAfter pin now i w) := by
  cases i with
  | swRun => exact (swAfterRun_cases w (normalise pin w.activeHigh) now).imp_left (And.imp_right .inl)
  | swStatechanged => exact .inl ⟨⟨rfl, rfl, rfl⟩, .inr ⟨rfl, rfl⟩⟩
  | _ => exact .inl ⟨⟨rfl, rfl, rfl⟩, .inl rfl⟩

/-! ## What a step does to SW -/

/-- A step without reset, as far as SW and the debounce clock are concerned. -/
theorem step_sw {s t : State} {e : StepInput} {rest : List StepInput} (hin : s.inputs = e :: rest) (hrst : e.rst = false)
    (h : step s = .next t) :
    t.sw = e.foreground.elim s.sw (swAfter e.pinSw (millisOf (clockSample s.tUs e.tUs)) · s.sw) ∧ t.inputs = rest
      ∧ t.tUs = clockSample s.tUs e.tUs := by
  obtain ⟨htUs, -, hinputs, -, hsw⟩ := step_panelStep hin hrst h
  rw [State.nowMillis_eq_millisOf] at hsw
  exact ⟨hsw, hinputs, htUs⟩

theorem step_sw_of_reset {s t : State} {e : StepInput} {rest : List StepInput} (hin : s.inputs = e :: rest)
    (hrst : e.rst = true) (h : step s = .next t) : t.sw = SwState.reset := by
  have hstep : step s = .next (s.latch e rest).applyReset := by simp [step, State.nextInput, hin, runInput, hrst]
  cases hstep.symm.trans h
  rfl

/-- Everything a step does to SW: a reset, a flip at the step's clock, or neither, and then the flag is cleared by STATECHANGED
alone. -/
theorem step_sw_cases {s t : State} (h : step s = .next t) :
    (∃ e rest, s.inputs = e :: rest ∧ e.rst = true ∧ t.sw = SwState.reset)
      ∨ (SwUnflipped s.sw t.sw ∧ (t.sw.changed = s.sw.changed
          ∨ ∃ e rest, s.inputs = e :: rest ∧ e.foreground = some .swStatechanged ∧ t.sw.changed = false))
      ∨ SwFlipped (millisOf t.tUs) s.sw t.sw := by
  cases hin : s.inputs with
  | nil =>
    cases (step_of_no_input hin).symm.trans h
    exact .inr (.inl ⟨.refl _, .inl rfl⟩)
  | cons e rest =>
    cases hrst : e.rst with
    | true => exact .inl ⟨e, rest, rfl, hrst, step_sw_of_reset hin hrst h⟩
    | false =>
      obtain ⟨hsw, -, htUs⟩ := step_sw hin hrst h
      rw [hsw, htUs]
      cases hop : e.foreground with
      | none => exact .inr (.inl ⟨.refl _, .inl rfl⟩)
      | some i =>
        rcases swAfter_cases e.pinSw (millisOf (clockSample s.tUs e.tUs)) i s.sw with ⟨hkept, hflag⟩ | hflip
        · exact .inr (.inl ⟨hkept, hflag.imp_right fun ⟨hi, hclear⟩ => ⟨e, rest, rfl, hi ▸ hop, hclear⟩⟩)
        · exact .inr (.inr hflip)

/-- Settles O55: a reset clears the flag, a flip sets it, and without either STATECHANGED alone writes it. -/
theorem changedFlagReportsFlips : Obligations.ChangedFlagReportsFlips := by
  unfold Obligations.ChangedFlagReportsFlips
  intro s t h
  rcases step_sw_cases h with ⟨e, rest, hin, hrst, hsw⟩ | ⟨hkept, hflag⟩ | hflip
  · have hclear : t.sw.changed = false := congrArg SwState.changed hsw
    exact ⟨fun _ hset => absurd (hclear.symm.trans hset) Bool.false_ne_true,
      fun hnone => absurd ((hnone e rest hin).symm.trans hrst) Bool.false_ne_true, fun _ _ => ⟨e, rest, hin, .inl hrst⟩⟩
  · refine ⟨fun hunset hset => ?set, fun _ hne => absurd hkept.stable hne, fun hset hunset => ?cleared⟩
    case set =>
      rcases hflag with hsame | ⟨-, -, -, -, hclear⟩
      · exact absurd (hunset.symm.trans (hsame.symm.trans hset)) Bool.false_ne_true
      · exact absurd (hclear.symm.trans hset) Bool.false_ne_true
    case cleared =>
      rcases hflag with hsame | ⟨e, rest, hin, hop, -⟩
      · exact absurd (hunset.symm.trans (hsame.trans hset)) Bool.false_ne_true
      · exact ⟨e, rest, hin, .inr hop⟩
  · exact ⟨fun _ _ => hflip.stable, fun _ _ => hflip.changed,
      fun _ hunset => absurd (hunset.symm.trans hflip.changed) Bool.false_ne_true⟩

/-- Settles O56: a step without reset flips, or leaves what a flip records. -/
theorem flipRecordsDurations : Obligations.FlipRecordsDurations := by
  unfold Obligations.FlipRecordsDurations
  intro s t h hnone
  rcases step_sw_cases h with ⟨e, rest, hin, hrst, -⟩ | ⟨hkept, -⟩ | hflip
  · exact absurd ((hnone e rest hin).symm.trans hrst) Bool.false_ne_true
  · exact ⟨fun hne => absurd hkept.stable hne, fun _ => ⟨hkept.lastStateDuration, hkept.lastChangeTime⟩⟩
  · exact ⟨fun _ => ⟨hflip.lastStateDuration, hflip.currentStateStart,
      hflip.lastChangeTime.trans hflip.currentStateStart.symm, hflip.raw⟩, fun heq => absurd heq hflip.stable⟩

/-! ## The interval of differing samples

R170's argument: a first differing run sets the start of the interval, and until a flip every differing run keeps it, while the
steps between do not touch what the debounce reads. So a later run compares the clock with the time of that first run. -/

/-- `w` is in an interval of differing samples that began at `start`, with the debounced state and the settings of `w₀`. -/
structure InInterval (w₀ : SwState) (start : Word32) (w : SwState) : Prop where
  raw : w.raw ≠ w.stable
  mismatchStart : w.mismatchStart = start
  stable : w.stable = w₀.stable
  activeHigh : w.activeHigh = w₀.activeHigh
  debounceMs : w.debounceMs = w₀.debounceMs

theorem isSwRun_iff (e : StepInput) : isSwRun e = true ↔ e.rst = false ∧ e.foreground = some .swRun := by
  simp [isSwRun]

theorem differingRun_iff (w : SwState) (e : StepInput) :
    differingRun w e = true ↔ isSwRun e = true ∧ normalise e.pinSw w.activeHigh ≠ w.stable := by
  rw [differingRun, Bool.and_eq_true, bne_iff_ne, normalise]

theorem swQuiet_rst {e : StepInput} (h : swQuiet e = true) : e.rst = false := by
  rw [swQuiet, Bool.and_eq_true, Bool.not_eq_true'] at h
  obtain ⟨hrst, -⟩ := h
  exact hrst

/-- A run in the interval still differs, and counts from its start. -/
theorem InInterval.differing {w₀ w : SwState} {start : Word32} {sample : Bool} (h : InInterval w₀ start w)
    (hne : sample ≠ w₀.stable) (now : Word32) : sample ≠ w.stable ∧ mismatchFrom w now = start :=
  ⟨h.stable ▸ hne, (mismatchFrom_of_differing now h.raw).trans h.mismatchStart⟩

theorem inInterval_differingSince (w : SwState) (start : Word32) : InInterval w start (w.differingSince start) :=
  ⟨Bool.not_ne_self _, rfl, rfl, rfl, rfl⟩

/-- A differing run with the debounce time still to come begins an interval. -/
theorem swAfterRun_begins {w : SwState} {sample : Bool} {now : Word32} (hsame : w.raw = w.stable) (hne : sample ≠ w.stable)
    (hearly : elapsedAtLeast w.debounceMs now now = false) : InInterval w now (swAfterRun w sample now) := by
  rw [swAfterRun_of_differing now hne, mismatchFrom_of_equal now hsame, hearly, if_neg Bool.false_ne_true]
  exact inInterval_differingSince w now

theorem InInterval.run {w₀ w : SwState} {start now : Word32} {sample : Bool} (h : InInterval w₀ start w)
    (hne : sample ≠ w₀.stable) (hearly : elapsedAtLeast w₀.debounceMs start now = false) :
    InInterval w₀ start (swAfterRun w sample now) := by
  obtain ⟨hdiff, hstart⟩ := h.differing hne now
  rw [swAfterRun_of_differing now hdiff, hstart, h.debounceMs, hearly, if_neg Bool.false_ne_true]
  exact { inInterval_differingSince w start with
    stable := h.stable, activeHigh := h.activeHigh, debounceMs := h.debounceMs }

/-- A quiet step leaves what the debounce reads. -/
theorem InInterval.quiet {w₀ w : SwState} {start : Word32} {e : StepInput} (h : InInterval w₀ start w)
    (hquiet : swQuiet e = true) (now : Word32) :
    InInterval w₀ start (e.foreground.elim w (swAfter e.pinSw now · w)) := by
  cases hop : e.foreground with
  | none => exact h
  | some i =>
    cases i with
    | swRun | swSetpin | swSetdebounce => simp [swQuiet, hop] at hquiet
    | swStatechanged | swResetduration => exact ⟨h.raw, h.mismatchStart, h.stable, h.activeHigh, h.debounceMs⟩
    | _ => exact h

/-- A step that issues SW.RUN. -/
theorem step_of_swRun {s t : State} {e : StepInput} {rest : List StepInput} (hin : s.inputs = e :: rest)
    (hrun : isSwRun e = true) (h : step s = .next t) :
    t.sw = swAfterRun s.sw (normalise e.pinSw s.sw.activeHigh) (millisOf (clockSample s.tUs e.tUs)) ∧ t.inputs = rest
      ∧ t.tUs = clockSample s.tUs e.tUs := by
  obtain ⟨hrst, hop⟩ := (isSwRun_iff e).1 hrun
  have hstep := step_sw hin hrst h
  rwa [hop] at hstep

/-- What the steps within an interval pass: they are quiet, or a differing run before the debounce time has elapsed. -/
def staysDiffering (w₀ : SwState) (start : Word32) (e : StepInput) (now : Word32) : Bool :=
  swQuiet e || (differingRun w₀ e && !elapsedAtLeast w₀.debounceMs start now)

theorem step_in_interval {s t : State} {w₀ : SwState} {start : Word32} {e : StepInput} {rest : List StepInput}
    (hin : s.inputs = e :: rest) (hpass : staysDiffering w₀ start e (millisOf (clockSample s.tUs e.tUs)) = true)
    (hw : InInterval w₀ start s.sw) (h : step s = .next t) :
    InInterval w₀ start t.sw ∧ t.inputs = rest ∧ t.tUs = clockSample s.tUs e.tUs := by
  rw [staysDiffering, Bool.or_eq_true, Bool.and_eq_true, Bool.not_eq_true', differingRun_iff] at hpass
  rcases hpass with hquiet | ⟨⟨hrun, hne⟩, hearly⟩
  · obtain ⟨hsw, hafter⟩ := step_sw hin (swQuiet_rst hquiet) h
    exact ⟨hsw ▸ hw.quiet hquiet _, hafter⟩
  · obtain ⟨hsw, hafter⟩ := step_of_swRun hin hrun h
    rw [hsw, hw.activeHigh]
    exact ⟨hw.run hne hearly, hafter⟩

/-- The interval lasts over inputs that pass. -/
theorem runSteps_in_interval {w₀ : SwState} {start : Word32} {later : List StepInput} (es : List StepInput) {s t : State}
    (hin : s.inputs = es ++ later) (hpass : allSamples (staysDiffering w₀ start) s.tUs es = true)
    (hw : InInterval w₀ start s.sw) (h : runSteps es.length s = .next t) :
    InInterval w₀ start t.sw ∧ t.inputs = later ∧ t.tUs = clockAfter s.tUs es := by
  induction es generalizing s with
  | nil => cases h; exact ⟨hw, hin, rfl⟩
  | cons e es ih =>
    rw [allSamples, Bool.and_eq_true] at hpass
    obtain ⟨hfirst, hothers⟩ := hpass
    rw [List.length_cons, runSteps_succ] at h
    obtain ⟨u, hstep, h⟩ := andThen_eq_next h
    obtain ⟨hwu, hinu, htUs⟩ := step_in_interval hin hfirst hw hstep
    rw [← htUs] at hothers
    rw [clockAfter, ← htUs]
    exact ih hinu hothers hwu h

/-! ## When the debounced state flips -/

/-- At its own start an interval has lasted 0 ms. -/
theorem elapsedAtLeast_self (d now : Word32) : elapsedAtLeast d now now = true ↔ d = 0 := by
  rw [elapsedAtLeast, decide_eq_true_iff, BitVec.sub_self, BitVec.toNat_zero, Nat.le_zero]
  exact BitVec.toNat_inj (y := 0)

/-- A differing run after an interval that began with `start` flips exactly if the debounce time has elapsed since. -/
theorem step_in_interval_flips_iff {s t : State} {w₀ : SwState} {start : Word32} {e : StepInput} {rest : List StepInput}
    (hin : s.inputs = e :: rest) (hrun : differingRun w₀ e = true) (hw : InInterval w₀ start s.sw) (h : step s = .next t) :
    t.sw.stable ≠ w₀.stable ↔ elapsedAtLeast w₀.debounceMs start (millisOf (clockSample s.tUs e.tUs)) = true := by
  obtain ⟨hisRun, hne⟩ := (differingRun_iff w₀ e).1 hrun
  obtain ⟨hsw, -⟩ := step_of_swRun hin hisRun h
  obtain ⟨hdiff, hstart⟩ := hw.differing hne (millisOf (clockSample s.tUs e.tUs))
  rw [hsw, hw.activeHigh, ← hw.stable, swAfterRun_flips_iff _ hdiff, hstart, hw.debounceMs]

/-- The run that follows inputs within an interval flips exactly if it comes at least the debounce time after the start. -/
theorem runSteps_in_interval_flips_iff {s t : State} {w₀ : SwState} {start : Word32} {es rest : List StepInput} {e : StepInput}
    (hin : s.inputs = es ++ e :: rest) (hpass : allSamples (staysDiffering w₀ start) s.tUs es = true)
    (hrun : differingRun w₀ e = true) (hw : InInterval w₀ start s.sw) (h : runSteps (es.length + 1) s = .next t) :
    t.sw.stable ≠ w₀.stable ↔
      elapsedAtLeast w₀.debounceMs start (millisOf (clockSample (clockAfter s.tUs es) e.tUs)) = true := by
  rw [runSteps_add] at h
  obtain ⟨u, hbetween, hlast⟩ := andThen_eq_next h
  rw [runSteps_succ] at hlast
  obtain ⟨v, hstep, hv⟩ := andThen_eq_next hlast
  obtain ⟨hwu, hinu, htUs⟩ := runSteps_in_interval es hin hpass hw hbetween
  cases hv
  rw [← htUs]
  exact step_in_interval_flips_iff hinu hrun hwu hstep

/-- Settles O54: the first differing run begins an interval of length 0, the steps after it stay in the interval, and the last
run looks at its length. -/
theorem debounceGuarantee : Obligations.DebounceGuarantee := by
  unfold Obligations.DebounceGuarantee
  intro s t e rest hsame
  refine ⟨fun hin hrun h => ⟨fun hequal => ?equal, fun hdiff => ?first⟩, fun e0 es hin hpos hfirst hlast hpass h => ?later⟩
  case equal =>
    have hsample : normalise e.pinSw s.sw.activeHigh = s.sw.stable := by
      by_contra hne
      exact Bool.false_ne_true (hequal.symm.trans ((differingRun_iff s.sw e).2 ⟨hrun, hne⟩))
    obtain ⟨hsw, -⟩ := step_of_swRun hin hrun h
    rw [hsw, swAfterRun_of_equal _ hsample]
    exact ⟨rfl, rfl⟩
  case first =>
    obtain ⟨-, hne⟩ := (differingRun_iff s.sw e).1 hdiff
    obtain ⟨hsw, -⟩ := step_of_swRun hin hrun h
    rw [hsw, swAfterRun_flips_iff _ hne, mismatchFrom_of_equal _ hsame, elapsedAtLeast_self]
  case later =>
    obtain ⟨hrun, hne⟩ := (differingRun_iff s.sw e0).1 hfirst
    have hearly (now : Word32) : elapsedAtLeast s.sw.debounceMs now now = false :=
      Bool.eq_false_of_not_eq_true (mt (elapsedAtLeast_self _ now).1 hpos)
    rw [runSteps_succ] at h
    obtain ⟨u, hbegin, h⟩ := andThen_eq_next h
    obtain ⟨hsw, hinu, htUs⟩ := step_of_swRun hin hrun hbegin
    have hwu := swAfterRun_begins hsame hne (hearly (millisOf (clockSample s.tUs e0.tUs)))
    rw [← hsw] at hwu
    rw [← htUs] at hpass hwu ⊢
    exact runSteps_in_interval_flips_iff hinu hpass hlast hwu h

end Sys2Proof.Machine

namespace Sys2Proof.Machine

/-! ## The split of the ports -/

/-- Every operation but the put has a port F word (R75). -/
theorem encode_eq_f_of_ne_put {i : Instr} (hi : ∀ f, i ≠ .ringPut f) : ∃ w, encode i = .f w := by
  cases i with
  | ringPut f => exact absurd rfl (hi f)
  | _ => exact ⟨_, rfl⟩

/-- Settles O9: the decoder of port P reads puts only, the opcodes of port F select none, and any other operation is read back from
the word that encodes it. -/
theorem portsSplitTheOperations : Obligations.PortsSplitTheOperations := by
  unfold Obligations.PortsSplitTheOperations
  refine ⟨fun w i h => ⟨frameFields w, decodeP_eq_put h⟩, decode_f_ne_put, fun i hi => ?_⟩
  obtain ⟨w, hw⟩ := encode_eq_f_of_ne_put hi
  have hwf : wellFormed i = true := wellFormed_of_port_f (congrArg portOf hw)
  exact ⟨w, hw ▸ decodeInvertsEncode i hwf⟩

/-! ## The clock -/

/-- The clock after a step is the sample that the step took: neither a reset nor a command writes it (R207, log 2). -/
theorem step_tUs {s t : State} (h : step s = .next t) : t.tUs = clockSample s.tUs s.nextInput.1.tUs := by
  rcases step_cases h with ⟨-, rfl⟩ | ⟨-, hrun⟩
  · rfl
  · exact runCommands_induct (P := fun u => u.tUs = clockSample s.tUs s.nextInput.1.tUs)
      (fun _ _ _ hu hi => (exec_tUs hi).trans hu) (fun _ hu => hu) _ _ _ rfl hrun

/-- Settles O15: a step ends with the sample it took, and no sample is below the one before it. -/
theorem clockNeverGoesBack : Obligations.ClockNeverGoesBack := by
  unfold Obligations.ClockNeverGoesBack
  intro s t h
  rw [step_tUs h]
  exact clockSample_ge _ _

/-- Settles O16: R208's formula, and its value at the rule's example, the last microsecond before the millisecond count would
show 1. -/
theorem millisecondsFromMicroseconds : Obligations.MillisecondsFromMicroseconds := by
  unfold Obligations.MillisecondsFromMicroseconds
  refine ⟨State.nowMillis_toNat, fun s h => BitVec.eq_of_toNat_eq ?_⟩
  rw [s.nowMillis_toNat, h]
  rfl

/-! ## Where steps stop -/

theorem andThen_eq_fault {r : Result} {g : State → Result} {e : Fault} (h : andThen r g = .fault e) :
    r = .fault e ∨ ∃ u, r = .next u ∧ g u = .fault e := by
  cases r with
  | next u => exact .inr ⟨u, rfl, h⟩
  | fault => exact .inl h
  | refused => cases h

theorem andThen_eq_refused {r : Result} {g : State → Result} {e : Refusal} (h : andThen r g = .refused e) :
    r = .refused e ∨ ∃ u, r = .next u ∧ g u = .refused e := by
  cases r with
  | next u => exact .inr ⟨u, rfl, h⟩
  | fault => cases h
  | refused => exact .inl h

theorem runCommand_keeps_blockInv {c : Command} {s t : State} (hs : BlockInv s) (h : runCommand c s = .next t) :
    BlockInv t := by
  rcases runCommand_cases h with ⟨i, -, hexec⟩ | ⟨op, -, rfl⟩
  · exact exec_keeps_blockInv hs hexec
  · exact hs

theorem BlockInv.runCommand_ne_fault {s : State} (hs : BlockInv s) (c : Command) (r : Fault) : runCommand c s ≠ .fault r := by
  intro h
  obtain ⟨i, -, hexec⟩ := runCommand_fault h
  exact hs.exec_ne_fault i r hexec

theorem BlockInv.runCommands_ne_fault (cs : List Command) (r : Fault) {s : State} (hs : BlockInv s) :
    runCommands cs s ≠ .fault r := by
  induction cs generalizing s with
  | nil => exact nofun
  | cons c cs ih =>
    intro h
    rw [runCommands_cons_eq] at h
    rcases andThen_eq_fault h with hfault | ⟨u, hnext, hfault⟩
    · exact hs.runCommand_ne_fault c r hfault
    · exact ih (runCommand_keeps_blockInv hs hnext) hfault

/-- Only port P carries words that are no Frame: their length field is 9 to 15 (R23). -/
theorem decode_eq_notAFrame {c : Command} {len : BitVec 4} (h : decode c = .error (.notAFrame len)) :
    ∃ w, c = .p w ∧ 9 ≤ (w.extractLsb' 34 4).toNat ∧ len = w.extractLsb' 34 4 := by
  cases c with
  | p w =>
    rw [decode, decodeP] at h
    split at h
    · cases h
    next hlen =>
      cases h
      exact ⟨w, rfl, (frame_wellFormed_eq_false_iff (frameFields w)).1 (Bool.eq_false_of_not_eq_true hlen), rfl⟩
  | f w =>
    change decodeFields (cmdOp w) (cmdArg w) = _ at h
    cases hres : reservedOnF (cmdOp w) with
    | true => cases (decodeFields_of_reserved (cmdArg w) hres).symm.trans h
    | false =>
      obtain ⟨i, hi⟩ := decodeFields_of_not_reserved (cmdArg w) hres
      cases hi.symm.trans h

/-- The operation a port's word selects is a proper one: port P checks its frame, and the others carry no check. -/
theorem decode_wellFormed {c : Command} {i : Instr} (h : decode c = .ok i) : wellFormed i = true := by
  obtain ⟨hwf, -⟩ := encodeKeepsWhatDecodeReads c i h
  exact hwf

/-- A command is refused only as a port P word that is no Frame (U5, log 9); `runCommand_of_not_frame` is the converse. -/
theorem runCommand_refused_word {c : Command} {s : State} {r : Refusal} (h : runCommand c s = .refused r) :
    ∃ w, c = .p w ∧ 9 ≤ (w.extractLsb' 34 4).toNat ∧ r = .notAFrame (w.extractLsb' 34 4) := by
  rcases runCommand_refused h with ⟨i, hi, hexec⟩ | ⟨len, hlen, rfl⟩
  · exact absurd hexec (exec_ne_refused (decode_wellFormed hi) s r)
  · obtain ⟨w, rfl, hge, rfl⟩ := decode_eq_notAFrame hlen
    exact ⟨w, rfl, hge, rfl⟩

theorem runCommands_refused_word {cs : List Command} {s : State} {r : Refusal} (h : runCommands cs s = .refused r) :
    ∃ w, Command.p w ∈ cs ∧ 9 ≤ (w.extractLsb' 34 4).toNat ∧ r = .notAFrame (w.extractLsb' 34 4) := by
  induction cs generalizing s with
  | nil => cases h
  | cons c cs ih =>
    rw [runCommands_cons_eq] at h
    rcases andThen_eq_refused h with hrefused | ⟨u, -, hrefused⟩
    · obtain ⟨w, rfl, hword⟩ := runCommand_refused_word hrefused
      exact ⟨w, List.mem_cons_self, hword⟩
    · obtain ⟨w, hmem, hword⟩ := ih hrefused
      exact ⟨w, List.mem_cons_of_mem c hmem, hword⟩

/-- Commands with a port P word among them that is no Frame have no next state, in whatever order they come. -/
theorem runCommands_ne_next {cs : List Command} {w : FrameWord} (hmem : Command.p w ∈ cs)
    (hlen : 9 ≤ (w.extractLsb' 34 4).toNat) (s t : State) : runCommands cs s ≠ .next t := by
  induction cs generalizing s with
  | nil => cases hmem
  | cons c cs ih =>
    intro h
    obtain ⟨u, hfirst, hrest⟩ := runCommands_cons h
    rcases List.mem_cons.1 hmem with rfl | hlater
    · rw [runCommand_of_not_frame hlen] at hfirst
      cases hfirst
    · exact ih hlater u hrest

/-- The port P command of a step is the word presented there (R70). -/
theorem StepInput.mem_commands_p (e : StepInput) (w : FrameWord) : Command.p w ∈ e.commands ↔ e.p = some w := by
  unfold StepInput.commands
  split
  next hp _ => simp [hp]
  next wp hp _ => simp [hp, eq_comm]
  next hp _ => simp [hp]
  next wp wf hp _ => split <;> simp [hp, eq_comm]

/-- Only the commands of an input can keep a step from answering: past the last input it idles, and a reset always answers. -/
theorem step_of_not_next {s : State} (h : ∀ t, step s ≠ .next t) :
    ∃ e rest, s.inputs = e :: rest ∧ e.rst = false ∧ step s = runCommands e.commands (s.latch e rest) := by
  cases hin : s.inputs with
  | nil => exact absurd (step_of_no_input hin) (h _)
  | cons e rest =>
    cases hrst : e.rst with
    | false => exact ⟨e, rest, rfl, hrst, step_of_inputs hin hrst⟩
    | true =>
      have hstep : step s = .next (s.latch e rest).applyReset := by simp [step, State.nextInput, hin, runInput, hrst]
      exact absurd hstep (h _)

/-- From a state with the invariant the commands of a step are refused if and only if port P presents a word that is no Frame: such
a word leaves no next state, the invariant leaves no fault, and the refusal names the one word of port P. -/
theorem BlockInv.runCommands_refused_iff {s : State} (hs : BlockInv s) (e : StepInput) (r : Refusal) :
    runCommands e.commands s = .refused r ↔
      ∃ w, e.p = some w ∧ 9 ≤ (w.extractLsb' 34 4).toNat ∧ r = .notAFrame (w.extractLsb' 34 4) := by
  simp only [← e.mem_commands_p]
  refine ⟨runCommands_refused_word, ?_⟩
  rintro ⟨w, hmem, hlen, rfl⟩
  cases h : runCommands e.commands s with
  | next t => exact absurd h (runCommands_ne_next hmem hlen s t)
  | fault x => exact absurd h (hs.runCommands_ne_fault e.commands x)
  | refused x =>
    obtain ⟨w', hmem', -, rfl⟩ := runCommands_refused_word h
    have hsame : some w' = some w := ((e.mem_commands_p w').1 hmem').symm.trans ((e.mem_commands_p w).1 hmem)
    cases hsame
    rfl

/-- Settles O22: taking the signals touches no register, so the commands of the step run from a state with the invariant. -/
theorem stepNeverFaults : Obligations.StepNeverFaults := by
  unfold Obligations.StepNeverFaults
  intro s hs
  have hlatched (e : StepInput) (rest : List StepInput) : BlockInv (s.latch e rest) := hs
  refine ⟨fun r h => ?fault, fun r => ⟨fun h => ?refused, ?notAFrame⟩⟩
  case fault =>
    obtain ⟨e, rest, -, -, hstep⟩ := step_of_not_next (s := s) (by simp [h])
    exact (hlatched e rest).runCommands_ne_fault e.commands r (hstep.symm.trans h)
  case refused =>
    obtain ⟨e, rest, hin, hrst, hstep⟩ := step_of_not_next (s := s) (by simp [h])
    obtain ⟨w, hword⟩ := ((hlatched e rest).runCommands_refused_iff e r).1 (hstep.symm.trans h)
    exact ⟨e, rest, w, hin, hrst, hword⟩
  case notAFrame =>
    rintro ⟨e, rest, w, hin, hrst, hword⟩
    rw [step_of_inputs hin hrst]
    exact ((hlatched e rest).runCommands_refused_iff e r).2 ⟨w, hword⟩

/-! ## The operations that read the clock or the pin -/

/-- Drive the clock sample and the pin level to other values. -/
def State.redrive (clock : Word64 → Word64) (pin : Bool → Bool) (s : State) : State :=
  { s with tUs := clock s.tUs, pinSw := pin s.pinSw }

/-- A look at the oldest frame reads CAPACITY and RING: what keeps these and changes the answers alike can come before or after. -/
theorem State.onOldest_comm (g : State → State) {s atNone atNone' : State} {withCell withCell' : TimedFrame → State}
    (hcap : (g s).capacity = s.capacity) (hring : (g s).ring = s.ring) (hnone : atNone' = g atNone)
    (hcell : ∀ c, withCell' c = g (withCell c)) :
    (g s).onOldest atNone' withCell' = mapNext g (s.onOldest atNone withCell) := by
  unfold State.onOldest State.ringHasNone State.cellRead
  rw [hcap, hring]
  split
  · rw [hnone, mapNext]
  · split
    · rfl
    next c _ => rw [hcell, mapNext]

/-- An operation depends on the clock only if it is one of R209's list, and on the pin only if it is SW.RUN (R212). -/
theorem exec_redrive {i : Instr} {s : State} {clock : Word64 → Word64} {pin : Bool → Bool}
    (hclock : readsClock i = true → clock s.tUs = s.tUs) (hpin : i = .swRun → pin s.pinSw = s.pinSw) :
    exec i (s.redrive clock pin) = mapNext (State.redrive clock pin) (exec i s) := by
  have hnow (h : readsClock i = true) : (s.redrive clock pin).nowMillis = s.nowMillis :=
    congrArg (fun t : Word64 => (t / 1000#64).setWidth 32) (hclock h)
  cases i with
  | ringPut f => exact execRingPut_comm (State.redrive clock pin) f s rfl (hclock rfl) rfl fun _ => rfl
  | ringPeek => exact State.onOldest_comm (State.redrive clock pin) rfl rfl rfl fun _ => rfl
  | ringGet => exact State.onOldest_comm (State.redrive clock pin) rfl rfl rfl fun _ => rfl
  | ringInserttime => exact State.onOldest_comm (State.redrive clock pin) rfl rfl rfl fun _ => rfl
  | ledPulse short => rw [exec, execLedPulse, hnow rfl]; rfl
  | ledRun => rw [exec, execLedRun, hnow rfl]; rfl
  | swCurduration => rw [exec, execSwCurduration, hnow rfl]; rfl
  | swResetduration => rw [exec, execSwResetduration, hnow rfl]; rfl
  | swRun =>
    have hlevel : (s.redrive clock pin).pinSw = s.pinSw := hpin rfl
    rw [exec, execSwRun, hnow rfl, hlevel]
    rfl
  | _ => rfl

/-- Settles O59: another clock value and the same pin. -/
theorem onlyListedOperationsReadClock : Obligations.OnlyListedOperationsReadClock := by
  unfold Obligations.OnlyListedOperationsReadClock
  refine ⟨fun i s now hi => ?_, fun i s t => exec_tUs⟩
  exact exec_redrive (clock := fun _ => now) (pin := id) (fun h => absurd (hi.symm.trans h) Bool.false_ne_true) fun _ => rfl

/-- Settles O60: another pin level and the same clock. -/
theorem onlySwRunReadsPin : Obligations.OnlySwRunReadsPin := by
  unfold Obligations.OnlySwRunReadsPin
  intro i s level hi
  exact exec_redrive (clock := id) (pin := fun _ => level) (fun _ => rfl) fun h => absurd h hi

end Sys2Proof.Machine

namespace Sys2Proof.Machine

/-! ## The reset input and the state after reset -/

/-- A step with reset asserted takes its signals and resets, whatever commands it presents (R230). -/
theorem step_of_reset {s : State} {e : StepInput} {rest : List StepInput} (h : s.inputs = e :: rest) (hrst : e.rst = true) :
    step s = .next (s.latch e rest).applyReset := by
  simp [step, State.nextInput, h, runInput, hrst]

/-- Settles O14: the state that such a step reaches, field by field. -/
theorem resetInputRestoresResetState : Obligations.ResetInputRestoresResetState := by
  unfold Obligations.ResetInputRestoresResetState
  intro s e rest hin hrst
  exact ⟨_, step_of_reset hin hrst, rfl, rfl, rfl, rfl, rfl, rfl, rfl, rfl⟩

/-- A query whose register agrees with R116 on a ring without cells answers that register for every CAPACITY. -/
theorem ringQuery_of_agree {s : State} {answer atZero : Word64} (h : s.capacity = 0 → answer = atZero) :
    ringQuery s answer atZero = .next (s.respondData answer) := by
  by_cases hc : s.capacity = 0
  · rw [ringQuery_of_zero _ _ hc, h hc]
  · exact ringQuery_of_cells _ _ hc

/-- Settles O17: right after reset each query answers alike with and without cells; only FREESLOTS, which answers CAPACITY, has to
look at CAPACITY 0. -/
theorem ringAfterReset : Obligations.RingAfterReset := by
  unfold Obligations.RingAfterReset
  intro c
  refine ⟨rfl, rfl, rfl, rfl, rfl, rfl, rfl, rfl, fun _ => rfl, ?empty, ?available, ?freeslots, ?peek⟩
  case empty => exact congrArg respOf (ringQuery_of_agree fun _ => rfl)
  case available => exact congrArg respOf (ringQuery_of_agree fun _ => rfl)
  case freeslots =>
    have hfree : ringFreeSlots c RingState.reset = c := BitVec.sub_zero c
    have hanswer : exec .ringFreeslots (State.resetWith c) = .next ((State.resetWith c).respondData (indexData c)) := by
      rw [← congrArg indexData hfree]
      refine ringQuery_of_agree fun (hc : c = 0) => ?_
      rw [hc]
      rfl
    rw [hanswer]
    rfl
  case peek => exact congrArg respOf (State.onOldest_of_none (.inr rfl))

/-- Settles O18: the registers are those of `LedState.reset`, and outputs and answer read them. -/
theorem ledAfterReset : Obligations.LedAfterReset := by
  unfold Obligations.LedAfterReset
  exact fun c => ⟨rfl, rfl, rfl, rfl, rfl, rfl, rfl, rfl, rfl, rfl, rfl, rfl, rfl, rfl⟩

/-- Settles O19: the registers are those of `SwState.reset`, and pulls and answers read them. -/
theorem swAfterReset : Obligations.SwAfterReset := by
  unfold Obligations.SwAfterReset
  exact fun c => ⟨rfl, rfl, rfl, rfl, rfl, rfl, rfl, rfl, rfl, rfl, rfl, rfl, rfl, rfl, rfl⟩

/-! ## A put between PEEK and GET -/

section

variable {s : State}

/-- A ring with a frame has cells (R116). -/
theorem BlockInv.capacity_ne_zero (hs : BlockInv s) (hsize : s.ring.size ≠ 0) : s.capacity ≠ 0 := by
  intro hc
  obtain ⟨-, -, -, -, hzero, -⟩ := hs.1.1 hc
  exact hsize hzero

theorem BlockInv.exists_contents_cons (hs : BlockInv s) (hsize : s.ring.size ≠ 0) : ∃ c q, s.contents = c :: q := by
  obtain ⟨-, htail⟩ := hs.head_tail_lt (hs.capacity_ne_zero hsize)
  exact ⟨_, _, List.eq_cons_of_mem_head? (State.contents_head? hsize htail)⟩

/-- With the invariant PEEK and GET answer (R61), and the answer is the oldest entry of the queue. -/
theorem BlockInv.respOf_peek_get {i : Instr} (hs : BlockInv s) (hi : i = .ringPeek ∨ i = .ringGet) :
    respOf (exec i s) = some (oldestFrame s.contents) := by
  obtain ⟨t, h, -⟩ := everyOperationCompletes s i hs (by rcases hi with rfl | rfl <;> rfl)
  rw [h]
  exact exec_peek_get_resp hs hi h

/-- With the invariant INSERTTIME answers, with the stamp of the oldest entry. -/
theorem BlockInv.respOf_inserttime {c : TimedFrame} {q : List TimedFrame} (hs : BlockInv s) (hq : s.contents = c :: q) :
    respOf (exec .ringInserttime s) = some { status := .ok, data := c.stamp, frame := 0 } := by
  obtain ⟨t, h, -⟩ := everyOperationCompletes s .ringInserttime hs rfl
  rw [h]
  exact exec_inserttime_resp hs hq h

end

/-- Settles O37: a put appends to the queue, so its oldest entry stays, unless the ring is full and gives it up. -/
theorem putBetweenPeekAndGet : Obligations.PutBetweenPeekAndGet := by
  unfold Obligations.PutBetweenPeekAndGet
  intro s t f hs hsize h
  have ht : BlockInv t := exec_keeps_blockInv hs h
  have hput := exec_put_contents hs (hs.capacity_ne_zero hsize) h
  refine ⟨fun hroom => ?room, fun hfull => ?full⟩
  case room =>
    obtain ⟨c, q, hq⟩ := hs.exists_contents_cons hsize
    rw [hroom, if_neg Bool.false_ne_true, hq, List.cons_append] at hput
    refine ⟨?_, (ht.respOf_inserttime hput).trans (hs.respOf_inserttime hq).symm⟩
    rw [ht.respOf_peek_get (.inr rfl), hs.respOf_peek_get (.inl rfl), hput, hq]
    rfl
  case full =>
    rw [if_pos hfull] at hput
    rw [ht.respOf_peek_get (.inr rfl), hput]

/-! ## What the answer of a query guarantees -/

/-- The ring has lost no frame to the foreground: it holds as many as before at least, and none was got. -/
structure KeepsFrames (s t : State) : Prop where
  capacity : t.capacity = s.capacity
  size_le : s.ring.size.toNat ≤ t.ring.size.toNat
  gets : t.ring.gets = s.ring.gets

theorem KeepsFrames.refl (s : State) : KeepsFrames s s := ⟨rfl, le_rfl, rfl⟩

theorem KeepsFrames.trans {s u t : State} (h : KeepsFrames s u) (h' : KeepsFrames u t) : KeepsFrames s t :=
  ⟨h'.capacity.trans h.capacity, h.size_le.trans h'.size_le, h'.gets.trans h.gets⟩

/-- Without a clear the fill level falls only where `gets` moves. -/
theorem Accounted.size_le {i : Instr} {r r' : RingState} (h : Accounted i r r') (hclear : i ≠ .ringClear)
    (hgets : r'.gets = r.gets) : r.size.toNat ≤ r'.size.toNat := by
  cases h with
  | kept hsize => exact hsize.ge
  | stored hsize => omega
  | overflowed hsize => exact hsize.ge
  | got _ _ hgot => exact absurd (hgot.symm.trans hgets) (by bv_omega)
  | cleared hi => exact absurd hi hclear

/-- Only GET and CLEAR take frames from the ring: a put into a full ring replaces one. -/
theorem exec_keepsFrames {i : Instr} {s t : State} (hs : BlockInv s) (hget : i ≠ .ringGet) (hclear : i ≠ .ringClear)
    (h : exec i s = .next t) : KeepsFrames s t := by
  have hring := exec_ring h
  have hgets : t.ring.gets = s.ring.gets := hring ▸ ringAfter_gets s.tUs hget
  exact ⟨exec_capacity h, (hring ▸ hs.1.accounted s.tUs i : Accounted i s.ring t.ring).size_le hclear hgets, hgets⟩

theorem KeepsFrames.size_ne_zero {s t : State} (h : KeepsFrames s t) (hsize : s.ring.size ≠ 0) : t.ring.size ≠ 0 := by
  have hle := h.size_le
  bv_omega

/-- The fill level of a full ring has nowhere to go. -/
theorem KeepsFrames.full {s t : State} (h : KeepsFrames s t) (hs : BlockInv s) (ht : BlockInv t) (hfull : s.ring.full = true) :
    t.ring.full = true := by
  have hc : s.capacity ≠ 0 := by
    intro hc
    obtain ⟨-, -, -, hempty, -⟩ := hs.1.1 hc
    exact absurd (hempty.symm.trans hfull) Bool.false_ne_true
  have hbefore := (hs.1.2 hc).shape
  have hafter := (ht.1.2 (h.capacity.trans_ne hc)).shape
  have hsize := hbefore.full_iff.1 hfull
  have hle := h.size_le
  have hbound := hafter.size_le
  have hcap := congrArg BitVec.toNat h.capacity
  exact hafter.full_iff.2 (by omega)

/-- The port F command of a step is the word presented there (R70). -/
theorem StepInput.mem_commands_f (e : StepInput) (w : CmdWord) : Command.f w ∈ e.commands ↔ e.f = some w := by
  unfold StepInput.commands
  split
  next _ hf => simp [hf]
  next _ hf => simp [hf]
  next hf => simp [hf, eq_comm]
  next hf => split <;> simp [hf, eq_comm]

/-- The operations of a step are a put and its foreground operation (R203). -/
theorem StepInput.operation_of_mem {e : StepInput} {c : Command} {i : Instr} (hc : c ∈ e.commands) (hi : decode c = .ok i) :
    (∃ f, i = .ringPut f) ∨ e.foreground = some i := by
  cases c with
  | p w => exact .inl ⟨_, decodeP_eq_put hi⟩
  | f w => exact .inr (StepInput.foreground_of_ok ((e.mem_commands_f w).1 hc) hi)

/-- A property that each command listed keeps is kept by all of them. -/
theorem runCommands_induct_mem {P : State → Prop} {cs : List Command}
    (hkeep : ∀ c ∈ cs, ∀ u v, P u → runCommand c u = .next v → P v) {s t : State} (hs : P s)
    (h : runCommands cs s = .next t) : P t := by
  induction cs generalizing s with
  | nil => cases h; exact hs
  | cons c cs ih =>
    obtain ⟨u, hfirst, hrest⟩ := runCommands_cons h
    exact ih (fun d hd => hkeep d (List.mem_cons_of_mem _ hd)) (hkeep c List.mem_cons_self s u hs hfirst) hrest

/-- Commands without a GET or CLEAR of the foreground keep the frames, whatever port P presents. -/
theorem StepInput.commands_keepFrames {e : StepInput} (hget : e.foreground ≠ some .ringGet)
    (hclear : e.foreground ≠ some .ringClear) {s t : State} (hs : BlockInv s) (h : runCommands e.commands s = .next t) :
    KeepsFrames s t := by
  have hboth : BlockInv t ∧ KeepsFrames s t := by
    refine runCommands_induct_mem (P := fun u => BlockInv u ∧ KeepsFrames s u) (fun c hc u v hu hrun => ?_) ⟨hs, .refl s⟩ h
    obtain ⟨hinv, hkept⟩ := hu
    refine ⟨runCommand_keeps_blockInv hinv hrun, hkept.trans ?_⟩
    rcases runCommand_cases hrun with ⟨i, hi, hexec⟩ | ⟨op, -, rfl⟩
    · rcases StepInput.operation_of_mem hc hi with ⟨f, rfl⟩ | hop
      · exact exec_keepsFrames (i := .ringPut f) hinv nofun nofun hexec
      · exact exec_keepsFrames hinv (fun h' => hget (h' ▸ hop)) (fun h' => hclear (h' ▸ hop)) hexec
    · exact ⟨rfl, le_rfl, rfl⟩
  exact hboth.2

theorem step_keepsFrames {s t : State} (hs : BlockInv s) (h : step s = .next t)
    (hquiet : ∀ e rest, s.inputs = e :: rest →
      e.rst = false ∧ e.foreground ≠ some .ringGet ∧ e.foreground ≠ some .ringClear) : KeepsFrames s t := by
  cases hin : s.inputs with
  | nil =>
    cases (step_of_no_input hin).symm.trans h
    exact ⟨rfl, le_rfl, rfl⟩
  | cons e rest =>
    obtain ⟨hrst, hget, hclear⟩ := hquiet e rest hin
    rw [step_of_inputs hin hrst] at h
    obtain ⟨hcap, hsize, hgets⟩ := StepInput.commands_keepFrames hget hclear (s := s.latch e rest) hs h
    exact ⟨hcap, hsize, hgets⟩

/-- Settles O38: the step takes no frame, so the fill level does not fall, and a level at CAPACITY stays there. -/
theorem queryResultsThatStayTrue : Obligations.QueryResultsThatStayTrue := by
  unfold Obligations.QueryResultsThatStayTrue
  intro s t hs h hquiet
  have hkept := step_keepsFrames hs h hquiet
  exact ⟨hkept.size_ne_zero, hkept.full hs (stepKeepsBlockInvariant s t hs h), hkept.gets⟩

end Sys2Proof.Machine
